-- ==== Sys2Proof/Word.lean ====
section
/-! DEFINITION. The widths of the block's quantities (00_scope.md rules R5 and R7). -/

namespace Sys2Proof

/-- A byte: 8 bits, bit 7 the most significant (00_scope.md section 4). -/
abbrev Byte := BitVec 8

/-- The fragment offset field, `OFF_W = 24` bits (R7). -/
abbrev FragOffset := BitVec 24

/-- The registers `EFO` and `WC`, `EXP_W = CUR_W = 25` bits (R7). -/
abbrev Reg25 := BitVec 25

/-- A timestamp, `TS_W = 32` bits (R7). -/
abbrev Timestamp := BitVec 32

/-- A payload length, `LEN_W = 16` bits (R5). -/
abbrev PayLen := BitVec 16

end Sys2Proof
end

