-- ==== Sys2Proof/Config.lean ====
section
/-! DEFINITION. The constants of an instance: the protocol constants, the parameters the spec leaves open, and the
free value of the data region (00_scope.md section 3). -/

namespace Sys2Proof

/-- `QT1_OFFSET`, first quantization table (R3). -/
def Config.qt1Offset : Nat := 25

/-- `QT2_OFFSET`, second quantization table (R3). -/
def Config.qt2Offset : Nat := 94

/-- `HEIGHT_OFFSET`, the 2-byte height (R3). -/
def Config.heightOffset : Nat := 163

/-- `WIDTH_OFFSET`, the 2-byte width (R3). -/
def Config.widthOffset : Nat := 165

/-- `DATA_OFFSET`, first byte of compressed scan data (R3). -/
def Config.dataOffset : Nat := 623

/-- How far the instance's buffer exceeds the least capacity the spec allows. No value is known: the spec leaves
`BUF_CAP` a parameter (R4, D4). DESIGN CHOICE (log entry 6), safe. -/
opaque Config.bufExtra : Nat

/-- `BUF_CAP`, any number `>= 1000000` (R4). -/
def Config.bufCap : Nat := 1000000 + Config.bufExtra

/-- `TEMPLATE`, 623 constant bytes of which the spec gives none (R6, D5). DESIGN CHOICE (log entry 5), safe. -/
opaque Config.template : Vector Byte 623

/-- What `BUF[a]` holds after the first RESET for `623 <= a < BUF_CAP`: "any value" (R14, D16, U11).
DESIGN CHOICE (log entry 7), safe. -/
opaque Config.dataByte : Nat → Byte

/-- The byte a buffer address holds right after the first RESET: the template below `DATA_OFFSET`, the free value
above (R13, R14). It is what an address reads as that the sparse buffer does not list. -/
def Config.resetByte (a : Nat) : Byte :=
  if h : a < 623 then Config.template[a] else Config.dataByte a

end Sys2Proof
end

