-- ==== Sys2Proof/Syntax.lean ====
section
/-! DEFINITION. The block's instruction words and instructions: the command port's inputs, the sections of a payload
header, and one constructor of `Instr` per row of spec/opcode_table.json (30_encoding.md, 40_header_parser.md). -/

namespace Sys2Proof

/-- What the producer puts on the command port for one operation (30_encoding.md R63, R60): the reset line, the
selector (`false` = PKT, `true` = ABORT) and the operands of PKT. `len` is the operand `L`. -/
structure Command where
  rst : Bool
  op  : Bool
  pay : List Byte
  len : PayLen
  m   : Bool
  ts  : Timestamp
  deriving DecidableEq, Repr

/-- The three operations of the block (00_scope.md R2, 43_control_ops.md R127). -/
inductive Operation where
  | pkt
  | abort
  | reset
  deriving DecidableEq, Repr

/-- The seven header forms (30_encoding.md R57). -/
inductive Form where
  | base
  | restart
  | quant
  | restartQuant
  | quantBad
  | restartQuantBad
  | truncated
  deriving DecidableEq, Repr

/-- The main header, payload bytes 0 to 7 (R51). `tspec` is kept although the block never reads it (R61), so that an
instruction holds every bit of its words. -/
structure MainHeader where
  tspec : Byte
  off   : FragOffset
  typ   : Byte
  q     : Byte
  w8    : Byte
  h8    : Byte
  deriving DecidableEq, Repr

/-- The restart-marker header: four bytes, none of them read (R52). -/
structure RestartHeader where
  b0 : Byte
  b1 : Byte
  b2 : Byte
  b3 : Byte
  deriving DecidableEq, Repr

/-- The quantization-table header: `mbz` and `prec` are not read, `qlen` is the declared table length (R53). -/
structure QuantHeader where
  mbz  : Byte
  prec : Byte
  qlen : BitVec 16
  deriving DecidableEq, Repr

/-- One constructor per row of the opcode table. Each form of PKT carries the sections of its payload (R50), then the
marker flag `m` and the timestamp `ts` that travel beside it (R60). -/
inductive Instr where
  | pktTrunc (pay : List Byte) (m : Bool) (ts : Timestamp)
  | pktRQ (h : MainHeader) (r : RestartHeader) (k : QuantHeader) (tab1 tab2 data : List Byte) (m : Bool) (ts : Timestamp)
  | pktRQX (h : MainHeader) (r : RestartHeader) (k : QuantHeader) (data : List Byte) (m : Bool) (ts : Timestamp)
  | pktQ (h : MainHeader) (k : QuantHeader) (tab1 tab2 data : List Byte) (m : Bool) (ts : Timestamp)
  | pktQX (h : MainHeader) (k : QuantHeader) (data : List Byte) (m : Bool) (ts : Timestamp)
  | pktR (h : MainHeader) (r : RestartHeader) (data : List Byte) (m : Bool) (ts : Timestamp)
  | pktB (h : MainHeader) (data : List Byte) (m : Bool) (ts : Timestamp)
  | abort
  | reset
  deriving DecidableEq, Repr

/-- The header record the parser returns (40_header_parser.md R70). `qlen` means something only when `qh` holds, the
tables only when `qt` holds. `hlen` is `H`, the header length consumed. -/
structure Hdr where
  off    : FragOffset
  typ    : Byte
  q      : Byte
  width  : BitVec 16
  height : BitVec 16
  rst    : Bool
  qh     : Bool
  qt     : Bool
  qlen   : BitVec 16
  tab1   : List Byte
  tab2   : List Byte
  hlen   : Nat
  deriving DecidableEq, Repr

/-- A packet whose header was parsed (not PKT.TRUNC): the record, the scan data `PAY[H .. L)`, the marker flag and the
timestamp. -/
structure Packet where
  hdr  : Hdr
  data : List Byte
  m    : Bool
  ts   : Timestamp
  deriving DecidableEq, Repr

end Sys2Proof
end

