-- ==== Sys2Proof/Machine/State.lean ====
section
/-! DEFINITION. The state of one instance (10_state.md), the results it hands out, the reasons a step can stop, and the
state after RESET. -/

namespace Sys2Proof.Machine

/-- The control state (R20). -/
inductive Fsm where
  | accumulating
  | boundary
  deriving DecidableEq, Repr

/-- The diagnostic events (60_exceptions.md R141). -/
inductive Event where
  | offsetMismatch
  | malformedHeader
  | bufferOverrun
  | tsNonincreasing
  | frameDiscarded
  deriving DecidableEq, Repr

/-- An event vector: one bit per event (R135, R141). -/
abbrev EventVec := BitVec 5

/-- An emitted frame: an owned copy of the buffer's bytes, its length, the key-frame flag and the marker packet's
timestamp (42_frame_emission.md R112). -/
structure Frame where
  bytes  : List Byte
  length : Reg25
  key    : Bool
  ts     : Timestamp
  deriving DecidableEq, Repr

/-- The result of one operation (00_scope.md section 4). -/
structure Result where
  frame  : Option Frame
  events : EventVec
  deriving DecidableEq, Repr

/-- The state of one instance (R13), and the model's own two fields for the block's surroundings: the commands issued
on the command port and not yet taken, in order of issue, and the results handed over so far, oldest first
(DESIGN CHOICE, log entries 1 and 2, safe). -/
structure State where
  /-- `BUF`, sparse: strictly rising addresses below `BUF_CAP`, no entry equal to `Config.resetByte` there (R14). -/
  buf     : List Host.Cell
  /-- `WC`, the write cursor (R15). -/
  wc      : Reg25
  /-- `EFO`, the expected fragment offset (R16). -/
  efo     : Reg25
  /-- `COR`, the corruption flag (R17). -/
  cor     : Bool
  /-- `LTS`, the timestamp of the last emitted frame (R18). -/
  lts     : Timestamp
  /-- `LTV`, whether `LTS` holds one (R19). -/
  ltv     : Bool
  /-- `FSM`, the control state (R20). -/
  fsm     : Fsm
  port    : List Command
  results : List Result
  deriving DecidableEq, Repr

/-- Why a step stops the machine. The block itself never stops (R90, R147). -/
inductive Fault where
  /-- Raised by the boundary when it would read the buffer past `BUF_CAP`, where the spec's `MemRead` is undefined
  (00_scope.md section 4). No operation reaches it (R111; DEDUCED, log entry 12). Safe. -/
  | bufferReadOutOfRange
  deriving DecidableEq, Repr

/-- Why a command is not run. -/
inductive Refusal where
  /-- Raised by no arm at present: an instruction without a meaning would be refused so. Safe. -/
  | notModelled (mnemonic : String)
  /-- Raised by `step` when a PKT command's `L` is not the number of its payload bytes: outside the domain
  (U15, R165; log entry 8). Safe. -/
  | untruePayloadLength
  deriving DecidableEq, Repr

/-- The machine right after RESET (R13's table, R160): nothing listed in the buffer, so that it reads as the template
below 623 and as the free value above; no command issued, no result handed over. -/
def State.reset : State where
  buf := []
  wc := 623
  efo := 0
  cor := false
  lts := 0
  ltv := false
  fsm := .accumulating
  port := []
  results := []

/-- An operation in progress: the block's state so far and the event vector so far (R135). -/
structure Work where
  st : State
  ev : EventVec
  deriving DecidableEq, Repr

/-- The five read-only status outputs (R24). -/
structure StatusOutputs where
  stCorrupted   : Bool
  stExpected    : Reg25
  stCursor      : Reg25
  stLastTs      : Timestamp
  stLastTsValid : Bool
  deriving DecidableEq, Repr

end Sys2Proof.Machine
end

