-- ==== Sys2Proof/Machine/Flags.lean ====
section
/-! DEFINITION. The flag `COR` and the event bits: when each condition holds (60_exceptions.md R136 to R141). -/

namespace Sys2Proof.Machine

/-- The bit of an event in the vector (R141). -/
def Event.bit : Event → Nat
  | .offsetMismatch => 0
  | .malformedHeader => 1
  | .bufferOverrun => 2
  | .tsNonincreasing => 3
  | .frameDiscarded => 4

/-- The vector with an event's bit set (R135). -/
def EventVec.withEvent (v : EventVec) (e : Event) : EventVec := v ||| BitVec.twoPow 5 e.bit

/-- An event is reported in a vector. -/
def EventVec.has (v : EventVec) (e : Event) : Bool := v.getLsbD e.bit

/-- The offset check: the 24-bit offset, zero-extended to 25 bits, differs from `EFO` (41_reassembly.md R92). -/
def offsetMismatches (off : FragOffset) (efo : Reg25) : Bool := decide (off.setWidth 25 ≠ efo)

/-- A quantization-table header declares a length other than 128 (R93). -/
def badTableLength (h : Hdr) : Bool := h.qh && !h.qt

/-- The scan copy would end above the buffer (R99). -/
def overruns (h : Hdr) (n : Nat) : Bool := decide (Config.bufCap < Config.dataOffset + h.off.toNat + n)

/-- The timestamp diagnostic: an unsigned comparison, made only when `LTS` is valid (R116). -/
def tsNonincreasing (ltv : Bool) (lts ts : Timestamp) : Bool := ltv && decide (ts.toNat ≤ lts.toNat)

end Sys2Proof.Machine
end

