-- ==== Sys2Proof/Decode.lean ====
section
/-! DEFINITION. The decoder, total on every command; the encoder, from the same layout; the opcode table's masks and
the parser's own pseudocode, both written beside the decoder as second readings of the spec (30_encoding.md,
40_header_parser.md). -/

namespace Sys2Proof

/-! ### Fields and predicates -/

/-- Big-endian assembly of 16 bits, `be16` (00_scope.md section 4). -/
def be16 (b0 b1 : Byte) : BitVec 16 := BitVec.ofNat 16 (b0.toNat * 256 + b1.toNat)

/-- Big-endian assembly of 24 bits, `be24` (00_scope.md section 4). -/
def be24 (b0 b1 b2 : Byte) : BitVec 24 := BitVec.ofNat 24 (b0.toNat * 65536 + b1.toNat * 256 + b2.toNat)

/-- Byte `k` of a number, byte 0 the least significant. -/
def byteOf (v k : Nat) : Byte := BitVec.ofNat 8 (v / 256 ^ k)

/-- The `n` bytes of a number, most significant first (R36). -/
def bigEndianBytes (v : Nat) : Nat → List Byte
  | 0 => []
  | n + 1 => byteOf v n :: bigEndianBytes v n

/-- `RST`: the type announces a restart-marker header (R57). -/
def isRestartType (typ : Byte) : Bool := decide (64 ≤ typ.toNat ∧ typ.toNat ≤ 127)

/-- `QH`: a quantization-table header is present (R57). -/
def hasQuantHeader (q : Byte) (off : FragOffset) : Bool := decide (128 ≤ q.toNat ∧ off.toNat = 0)

/-- `qlen = 128`, the second half of `QT` (R57). -/
def announcesTables (qlen : BitVec 16) : Bool := decide (qlen.toNat = 128)

/-- `PAY[i]`; every use stands behind a length test (R33), and past the end the value is of no account. -/
def payByte (pay : List Byte) (i : Nat) : Byte := pay.getD i 0

/-! ### Truncation and parsing, as the spec's own pseudocode has them -/

/-- The payload ends inside its own header (R59, R77): the four length tests in their order, each made only when the
ones before it failed. -/
def isTruncated (pay : List Byte) : Bool :=
  let off := be24 (payByte pay 1) (payByte pay 2) (payByte pay 3)
  let rst := isRestartType (payByte pay 4)
  let qh := hasQuantHeader (payByte pay 5) off
  let qb := if rst then 12 else 8
  let qlen := be16 (payByte pay (qb + 2)) (payByte pay (qb + 3))
  decide (pay.length < 8)
    || (rst && decide (pay.length < 12))
    || (qh && decide (pay.length < qb + 4))
    || (qh && announcesTables qlen && decide (pay.length < qb + 132))

/-- `Parse(PAY, L)` (40_header_parser.md R70), `none` for `Malformed`. -/
def parse (pay : List Byte) : Option Hdr :=
  if pay.length < 8 then none
  else
    let off := be24 (payByte pay 1) (payByte pay 2) (payByte pay 3)
    let typ := payByte pay 4
    let q := payByte pay 5
    let width := BitVec.ofNat 16 ((payByte pay 6).toNat * 8)
    let height := BitVec.ofNat 16 ((payByte pay 7).toNat * 8)
    let rst := isRestartType typ
    if rst && decide (pay.length < 12) then none
    else
      let pos := if rst then 12 else 8
      if hasQuantHeader q off then
        if pay.length < pos + 4 then none
        else
          let qlen := be16 (payByte pay (pos + 2)) (payByte pay (pos + 3))
          if announcesTables qlen then
            if pay.length < pos + 4 + 128 then none
            else some ⟨off, typ, q, width, height, rst, true, true, qlen,
              (pay.drop (pos + 4)).take 64, (pay.drop (pos + 4 + 64)).take 64, pos + 4 + 128⟩
          else some ⟨off, typ, q, width, height, rst, true, false, qlen, [], [], pos + 4⟩
      else some ⟨off, typ, q, width, height, rst, false, false, 0, [], [], pos⟩

/-! ### The decoder -/

/-- Why a command is not an operation of the block. -/
inductive DecodeError where
  /-- The operand `L` of a PKT command is not the number of payload bytes: outside the model's domain (U15, R165). -/
  | untruePayloadLength
  deriving DecidableEq, Repr

/-- The decoder's answer. -/
inductive Decoded where
  | ok (i : Instr)
  | error (e : DecodeError)
  deriving DecidableEq, Repr

/-- The part of a payload after the main and restart headers when a quantization-table header is present (R53, R54):
the header with its tables, the header alone, or `none` where the payload ends too early. -/
def splitQuant (rest : List Byte) : Option (QuantHeader × Option (List Byte × List Byte) × List Byte) :=
  match rest with
  | mbz :: prec :: l1 :: l0 :: tail =>
    let k : QuantHeader := ⟨mbz, prec, be16 l1 l0⟩
    if announcesTables k.qlen then
      if tail.length < 128 then none
      else some (k, some (tail.take 64, (tail.drop 64).take 64), tail.drop 128)
    else some (k, none, tail)
  | _ => none

/-- The instruction a payload stands for (R57, R59, R62): defined for every payload. -/
def decodePayload (pay : List Byte) (m : Bool) (ts : Timestamp) : Instr :=
  match pay with
  | tspec :: o2 :: o1 :: o0 :: typ :: q :: w8 :: h8 :: rest =>
    let h : MainHeader := ⟨tspec, be24 o2 o1 o0, typ, q, w8, h8⟩
    if isRestartType typ then
      match rest with
      | r0 :: r1 :: r2 :: r3 :: rest' =>
        if hasQuantHeader q h.off then
          match splitQuant rest' with
          | some (k, some (tab1, tab2), data) => .pktRQ h ⟨r0, r1, r2, r3⟩ k tab1 tab2 data m ts
          | some (k, none, data) => .pktRQX h ⟨r0, r1, r2, r3⟩ k data m ts
          | none => .pktTrunc pay m ts
        else .pktR h ⟨r0, r1, r2, r3⟩ rest' m ts
      | _ => .pktTrunc pay m ts
    else if hasQuantHeader q h.off then
      match splitQuant rest with
      | some (k, some (tab1, tab2), data) => .pktQ h k tab1 tab2 data m ts
      | some (k, none, data) => .pktQX h k data m ts
      | none => .pktTrunc pay m ts
    else .pktB h rest m ts
  | _ => .pktTrunc pay m ts

/-- Which operation a command selects: the reset line first, whatever `op` is (R63). -/
def Command.operation (c : Command) : Operation :=
  if c.rst then .reset else if c.op then .abort else .pkt

/-- The decoder, total on every command (R62, R63). -/
def decode (c : Command) : Decoded :=
  match c.operation with
  | .reset => .ok .reset
  | .abort => .ok .abort
  | .pkt =>
    if c.pay.length = c.len.toNat then .ok (decodePayload c.pay c.m c.ts) else .error .untruePayloadLength

/-! ### The encoder -/

/-- The 8 bytes of a main header (R51). -/
def MainHeader.bytes (h : MainHeader) : List Byte :=
  h.tspec :: (bigEndianBytes h.off.toNat 3 ++ [h.typ, h.q, h.w8, h.h8])

/-- The 4 bytes of a restart-marker header (R52). -/
def RestartHeader.bytes (r : RestartHeader) : List Byte := [r.b0, r.b1, r.b2, r.b3]

/-- The 4 bytes of a quantization-table header (R53). -/
def QuantHeader.bytes (k : QuantHeader) : List Byte := k.mbz :: k.prec :: bigEndianBytes k.qlen.toNat 2

/-- The payload an instruction stands for, its sections in the order of R50; a control has none. -/
def Instr.payload : Instr → List Byte
  | .pktTrunc pay _ _ => pay
  | .pktRQ h r k tab1 tab2 data _ _ => h.bytes ++ (r.bytes ++ (k.bytes ++ (tab1 ++ (tab2 ++ data))))
  | .pktRQX h r k data _ _ => h.bytes ++ (r.bytes ++ (k.bytes ++ data))
  | .pktQ h k tab1 tab2 data _ _ => h.bytes ++ (k.bytes ++ (tab1 ++ (tab2 ++ data)))
  | .pktQX h k data _ _ => h.bytes ++ (k.bytes ++ data)
  | .pktR h r data _ _ => h.bytes ++ (r.bytes ++ data)
  | .pktB h data _ _ => h.bytes ++ data
  | .abort => []
  | .reset => []

/-- A PKT command with a true length (R63, R60). -/
def pktCommand (pay : List Byte) (m : Bool) (ts : Timestamp) : Command :=
  ⟨false, false, pay, BitVec.ofNat 16 pay.length, m, ts⟩

/-- The command that stands for an instruction (R63). For the controls the lines the block does not look at are 0. -/
def encode : Instr → Command
  | .pktTrunc pay m ts => pktCommand pay m ts
  | .pktRQ h r k tab1 tab2 data m ts => pktCommand (Instr.payload (.pktRQ h r k tab1 tab2 data m ts)) m ts
  | .pktRQX h r k data m ts => pktCommand (Instr.payload (.pktRQX h r k data m ts)) m ts
  | .pktQ h k tab1 tab2 data m ts => pktCommand (Instr.payload (.pktQ h k tab1 tab2 data m ts)) m ts
  | .pktQX h k data m ts => pktCommand (Instr.payload (.pktQX h k data m ts)) m ts
  | .pktR h r data m ts => pktCommand (Instr.payload (.pktR h r data m ts)) m ts
  | .pktB h data m ts => pktCommand (Instr.payload (.pktB h data m ts)) m ts
  | .abort => ⟨false, true, [], 0, false, 0⟩
  | .reset => ⟨true, false, [], 0, false, 0⟩

/-- The operation an instruction is a form of: exactly three (R127). -/
def Instr.operation : Instr → Operation
  | .pktTrunc .. => .pkt
  | .pktRQ .. => .pkt
  | .pktRQX .. => .pkt
  | .pktQ .. => .pkt
  | .pktQX .. => .pkt
  | .pktR .. => .pkt
  | .pktB .. => .pkt
  | .abort => .abort
  | .reset => .reset

/-- The header form of a PKT instruction (R57). -/
def Instr.form : Instr → Option Form
  | .pktTrunc .. => some .truncated
  | .pktRQ .. => some .restartQuant
  | .pktRQX .. => some .restartQuantBad
  | .pktQ .. => some .quant
  | .pktQX .. => some .quantBad
  | .pktR .. => some .restart
  | .pktB .. => some .base
  | .abort => none
  | .reset => none

/-! ### The opcode table's masks (30_encoding.md R65) -/

/-- `W64`, payload bytes 0 to 7 as one number (R51). -/
def w64 (pay : List Byte) : BitVec 64 :=
  BitVec.ofNat 64 ((List.range 8).foldl (fun acc i => acc * 256 + (payByte pay i).toNat) 0)

/-- `QW32`, payload bytes `qb` to `qb + 3` as one number (R53). -/
def qw32 (pay : List Byte) (qb : Nat) : BitVec 32 :=
  BitVec.ofNat 32 ((List.range 4).foldl (fun acc i => acc * 256 + (payByte pay (qb + i)).toNat) 0)

/-- A row of the form table: masks over `W64`, and for the forms with a quantization-table header where `QW32` stands
and whether its low half must be `0x0080` (`true`) or must not (`false`). -/
structure FormRow where
  form  : Form
  mask  : BitVec 64
  value : BitVec 64
  qtest : Option (Nat × Bool)
  deriving DecidableEq, Repr

/-- Rows 1 to 6 of R65 in ascending order; row 0, PKT.TRUNC, has no bit pattern. -/
def formRows : List FormRow :=
  [ ⟨.restartQuant,    0x00FFFFFFC0800000, 0x0000000040800000, some (12, true)⟩,
    ⟨.restartQuantBad, 0x00FFFFFFC0800000, 0x0000000040800000, some (12, false)⟩,
    ⟨.quant,           0x00FFFFFF00800000, 0x0000000000800000, some (8, true)⟩,
    ⟨.quantBad,        0x00FFFFFF00800000, 0x0000000000800000, some (8, false)⟩,
    ⟨.restart,         0x00000000C0000000, 0x0000000040000000, none⟩,
    ⟨.base,            0x0000000000000000, 0x0000000000000000, none⟩ ]

/-- A row fits a payload (R65). -/
def FormRow.fits (r : FormRow) (pay : List Byte) : Bool :=
  decide (w64 pay &&& r.mask = r.value) &&
    match r.qtest with
    | none => true
    | some (qb, sense) => decide (qw32 pay qb &&& 0x0000FFFF = 0x00000080) == sense

/-- The form the table selects for a payload that is not truncated: the first row that fits (R65). -/
def tableForm (pay : List Byte) : Option Form :=
  (formRows.find? (fun r => r.fits pay)).map FormRow.form

/-! ### Instruction words as the opcode table numbers them (log entry 4) -/

/-- The payload of a table word: `W64` is bits 63..0 and `QW32` bits 95..64 of `w`, each laid out big-endian, with the
four bytes of the restart-marker header and the 128 table bytes zero where the form has them. -/
def tablePayload (w : Nat) : List Byte :=
  let main := bigEndianBytes (w % 2 ^ 64) 8
  let rst := isRestartType (payByte main 4)
  let qh := hasQuantHeader (payByte main 5) (be24 (payByte main 1) (payByte main 2) (payByte main 3))
  let qw := (w / 2 ^ 64) % 2 ^ 32
  let qt := qh && announcesTables (BitVec.ofNat 16 qw)
  main ++ ((if rst then List.replicate 4 0 else []) ++
    ((if qh then bigEndianBytes qw 4 else []) ++ (if qt then List.replicate 128 0 else [])))

/-- The command a table word stands for. A word of at most 8 bits is the command port's own: bit 0 is `op`, bit 1 is
`rst`, and a PKT selected that way has an empty payload. A longer word is a payload's. -/
def tableCommand (nbits w : Nat) : Command :=
  if nbits ≤ 8 then ⟨decide (w / 2 % 2 = 1), decide (w % 2 = 1), [], 0, false, 0⟩
  else pktCommand (tablePayload (w % 2 ^ nbits)) false 0

/-- The instruction the decoder reads from a table word. -/
def decodeTableWord (nbits w : Nat) : Option Instr :=
  match decode (tableCommand nbits w) with
  | .ok i => some i
  | .error _ => none

end Sys2Proof
end

