-- ==== Sys2Proof/Machine/Operands.lean ====
section
/-! DEFINITION. The operand forms: the header record each form of PKT gives the engine (40_header_parser.md R71 to R76)
and the field computations of 30_encoding.md R56. -/

namespace Sys2Proof.Machine

/-- A dimension in pixels: the field times 8, 16 bits (R56). -/
def dimension (units : Byte) : BitVec 16 := BitVec.ofNat 16 (units.toNat * 8)

/-- `hi8`, the high byte of a 16-bit number (00_scope.md section 4). -/
def hi8 (v : BitVec 16) : Byte := BitVec.ofNat 8 (v.toNat / 256)

/-- `lo8`, the low byte of a 16-bit number (00_scope.md section 4). -/
def lo8 (v : BitVec 16) : Byte := BitVec.ofNat 8 (v.toNat % 256)

/-- `H = 8 + 4 * RST + 4 * QH + 128 * QT` (R58). -/
def headerLength (rst qh qt : Bool) : Nat := 8 + 4 * rst.toNat + 4 * qh.toNat + 128 * qt.toNat

/-- The record of PKT.B (R71) and PKT.R (R72): no quantization-table header. -/
def plainHdr (h : MainHeader) (rst : Bool) : Hdr :=
  ⟨h.off, h.typ, h.q, dimension h.w8, dimension h.h8, rst, false, false, 0, [], [], headerLength rst false false⟩

/-- The record of PKT.Q (R73) and PKT.RQ (R74): a quantization-table header with its tables. -/
def tablesHdr (h : MainHeader) (rst : Bool) (k : QuantHeader) (tab1 tab2 : List Byte) : Hdr :=
  ⟨h.off, h.typ, h.q, dimension h.w8, dimension h.h8, rst, true, true, k.qlen, tab1, tab2, headerLength rst true true⟩

/-- The record of PKT.QX (R75) and PKT.RQX (R76): a quantization-table header without tables. -/
def badLengthHdr (h : MainHeader) (rst : Bool) (k : QuantHeader) : Hdr :=
  ⟨h.off, h.typ, h.q, dimension h.w8, dimension h.h8, rst, true, false, k.qlen, [], [], headerLength rst true false⟩

/-- The parsed packet of the six regular forms; `none` for PKT.TRUNC and the controls. -/
def packetOf : Instr → Option Packet
  | .pktTrunc .. => none
  | .pktRQ h _ k tab1 tab2 data m ts => some ⟨tablesHdr h true k tab1 tab2, data, m, ts⟩
  | .pktRQX h _ k data m ts => some ⟨badLengthHdr h true k, data, m, ts⟩
  | .pktQ h k tab1 tab2 data m ts => some ⟨tablesHdr h false k tab1 tab2, data, m, ts⟩
  | .pktQX h k data m ts => some ⟨badLengthHdr h false k, data, m, ts⟩
  | .pktR h _ data m ts => some ⟨plainHdr h true, data, m, ts⟩
  | .pktB h data m ts => some ⟨plainHdr h false, data, m, ts⟩
  | .abort => none
  | .reset => none

/-- The instruction is a PKT whose marker flag is set: a frame boundary (42_frame_emission.md R122). -/
def isMarkerPacket : Instr → Bool
  | .pktTrunc _ m _ => m
  | .pktRQ _ _ _ _ _ _ m _ => m
  | .pktRQX _ _ _ _ m _ => m
  | .pktQ _ _ _ _ _ m _ => m
  | .pktQX _ _ _ m _ => m
  | .pktR _ _ _ m _ => m
  | .pktB _ _ m _ => m
  | .abort => false
  | .reset => false

/-- The same instruction with its marker flag set to `b`; a control has none. -/
def withMarker (b : Bool) : Instr → Instr
  | .pktTrunc pay _ ts => .pktTrunc pay b ts
  | .pktRQ h r k tab1 tab2 data _ ts => .pktRQ h r k tab1 tab2 data b ts
  | .pktRQX h r k data _ ts => .pktRQX h r k data b ts
  | .pktQ h k tab1 tab2 data _ ts => .pktQ h k tab1 tab2 data b ts
  | .pktQX h k data _ ts => .pktQX h k data b ts
  | .pktR h r data _ ts => .pktR h r data b ts
  | .pktB h data _ ts => .pktB h data b ts
  | .abort => .abort
  | .reset => .reset

/-- The address the scan copy starts at, `623 + off` (R98). -/
def scanAddress (h : Hdr) : Nat := Config.dataOffset + h.off.toNat

end Sys2Proof.Machine
end

