-- ==== Sys2Proof/Machine/Ops.lean ====
section
/-! DEFINITION. The named operations: reads and writes of the buffer and the registers, flagging corruption (the
block's "exception"), the reset of the per-frame state (the return from it), and the steps of PKT
(20_memory.md, 41_reassembly.md, 42_frame_emission.md). -/

namespace Sys2Proof.Machine

/-! ### Registers: one update each -/

/-- Writes `BUF` as a whole. -/
def State.setBuf (s : State) (v : List Host.Cell) : State := { s with buf := v }
/-- Writes `WC`. -/
def State.setWc (s : State) (v : Reg25) : State := { s with wc := v }
/-- Writes `EFO`. -/
def State.setEfo (s : State) (v : Reg25) : State := { s with efo := v }
/-- Writes `COR`. -/
def State.setCor (s : State) (v : Bool) : State := { s with cor := v }
/-- Writes `LTS`. -/
def State.setLts (s : State) (v : Timestamp) : State := { s with lts := v }
/-- Writes `LTV`. -/
def State.setLtv (s : State) (v : Bool) : State := { s with ltv := v }
/-- Writes `FSM`. -/
def State.setFsm (s : State) (v : Fsm) : State := { s with fsm := v }
/-- Replaces the commands issued and not yet taken. -/
def State.setPort (s : State) (v : List Command) : State := { s with port := v }
/-- Hands one result over, after those before it (70_reset_and_hazards.md R172). -/
def State.addResult (s : State) (r : Result) : State := { s with results := s.results ++ [r] }

/-- The status outputs show five registers (R24). -/
def statusOutputs (s : State) : StatusOutputs := ⟨s.cor, s.efo, s.wc, s.lts, s.ltv⟩

/-! ### The buffer -/

/-- The byte a buffer holds at an address: the listed one, else the one it held right after the first RESET. -/
def Memory.byteAt (buf : List Host.Cell) (a : Nat) : Byte := (buf.lookup a).getD (Config.resetByte a)

/-- One byte of `BUF`, `none` at an address that does not exist (20_memory.md R30). -/
def State.byte (s : State) (a : Nat) : Option Byte :=
  if a < Config.bufCap then some (Memory.byteAt s.buf a) else none

/-- Stores one byte and keeps the canonical form: an entry is listed only where it differs from the reset contents. -/
def Memory.write (buf : List Host.Cell) (a : Nat) (v : Byte) : List Host.Cell :=
  buf.filter (fun c => decide (c.1 < a))
    ++ ((if v = Config.resetByte a then [] else [(a, v)]) ++ buf.filter (fun c => decide (a < c.1)))

/-- `MemWrite(BUF, a, n, v)`: bytes in ascending order, those at addresses `>= BUF_CAP` dropped (R40). -/
def Memory.writeBytes (buf : List Host.Cell) (a : Nat) : List Byte → List Host.Cell
  | [] => buf
  | v :: vs => Memory.writeBytes (if a < Config.bufCap then Memory.write buf a v else buf) (a + 1) vs

/-- `MemRead(BUF, a, n)`, defined only when `a + n <= BUF_CAP` (00_scope.md section 4). -/
def Memory.read (buf : List Host.Cell) (a n : Nat) : Option (List Byte) :=
  if a + n ≤ Config.bufCap then some ((List.range' a n).map (Memory.byteAt buf)) else none

/-- The canonical form of a buffer: strictly rising addresses, all below `BUF_CAP`, no entry equal to what the address
reads as unlisted. -/
def Memory.wf (buf : List Host.Cell) : Bool :=
  decide (buf.Pairwise (fun c d => c.1 < d.1)) &&
    buf.all (fun c => decide (c.1 < Config.bufCap) && decide (c.2 ≠ Config.resetByte c.1))

/-! ### Corruption and events -/

/-- Raises an event and nothing else (60_exceptions.md R135, R139, R140). -/
def Work.raise (w : Work) (e : Event) : Work := ⟨w.st, w.ev.withEvent e⟩

/-- Corruption is detected: `COR <- 1` and the event; the operation goes on (R144). -/
def Work.corrupt (w : Work) (e : Event) : Work := ⟨w.st.setCor true, w.ev.withEvent e⟩

/-- Corruption is detected where a condition holds. -/
def Work.corruptIf (w : Work) (cond : Bool) (e : Event) : Work := if cond then w.corrupt e else w

/-- The reset of the per-frame state: `EFO <- 0`, `COR <- 0` (42_frame_emission.md R114, 43_control_ops.md R126). -/
def State.frameReset (s : State) : State := (s.setEfo 0).setCor false

/-! ### Ending an operation -/

/-- The operation is done: its result is handed over with the new state (20_memory.md R42). -/
def deliver (frame : Option Frame) (w : Work) : Host.Outcome State Fault Refusal :=
  .next (w.st.addResult ⟨frame, w.ev⟩)

/-- The timestamp diagnostic (42_frame_emission.md R116). -/
def tsCheck (ts : Timestamp) (w : Work) : Work :=
  if tsNonincreasing w.st.ltv w.st.lts ts then w.raise .tsNonincreasing else w

/-- What an emission records: `LTS <- ts`, `LTV <- 1` (R117). -/
def State.recordEmission (s : State) (ts : Timestamp) : State := (s.setLts ts).setLtv true

/-- `Boundary(ts)` (R110): emit or discard, then reset the per-frame state. -/
def boundary (ts : Timestamp) (w : Work) : Host.Outcome State Fault Refusal :=
  let w0 : Work := ⟨w.st.setFsm .boundary, w.ev⟩
  if w0.st.cor then
    let w1 := w0.raise .frameDiscarded
    deliver none ⟨w1.st.frameReset.setFsm .accumulating, w1.ev⟩
  else
    match Memory.read w0.st.buf 0 w0.st.wc.toNat with
    | none => .fault .bufferReadOutOfRange
    | some bytes =>
      let w1 := tsCheck ts w0
      deliver (some ⟨bytes, w0.st.wc, true, ts⟩)
        ⟨((w1.st.recordEmission ts).frameReset).setFsm .accumulating, w1.ev⟩

/-- Step 6 of PKT: the boundary runs exactly when the marker flag is set (41_reassembly.md R103). -/
def finishPacket (m : Bool) (ts : Timestamp) (w : Work) : Host.Outcome State Fault Refusal :=
  if m then boundary ts w else deliver none w

/-! ### The steps of PKT -/

/-- Step 2, the offset check (R92). -/
def offsetCheck (h : Hdr) (w : Work) : Work := w.corruptIf (offsetMismatches h.off w.st.efo) .offsetMismatch

/-- A declared table length other than 128 (R93). -/
def tableLengthCheck (h : Hdr) (w : Work) : Work := w.corruptIf (badTableLength h) .malformedHeader

/-- Step 3 on the buffer: height, width and both tables into the fixed offsets, when the packet carries tables
(R94, R95, R96). -/
def patchedBuffer (h : Hdr) (buf : List Host.Cell) : List Host.Cell :=
  if h.qt then
    let b1 := Memory.writeBytes buf Config.heightOffset [hi8 h.height, lo8 h.height]
    let b2 := Memory.writeBytes b1 Config.widthOffset [hi8 h.width, lo8 h.width]
    let b3 := Memory.writeBytes b2 Config.qt1Offset h.tab1
    Memory.writeBytes b3 Config.qt2Offset h.tab2
  else buf

/-- Steps 3 and 4 on the buffer: the header patch, then the scan copy to `623 + off` (R94 to R98). -/
def packetBuffer (h : Hdr) (data : List Byte) (buf : List Host.Cell) : List Host.Cell :=
  Memory.writeBytes (patchedBuffer h buf) (scanAddress h) data

/-- Steps 3 and 4 (R94 to R98). -/
def storePacket (h : Hdr) (data : List Byte) (w : Work) : Work := ⟨w.st.setBuf (packetBuffer h data w.st.buf), w.ev⟩

/-- The overrun check (R99). -/
def overrunCheck (h : Hdr) (n : Nat) (w : Work) : Work := w.corruptIf (overruns h n) .bufferOverrun

/-- Step 5: `WC <- 623 + off + n`, `EFO <- off + n` (R100, R101). -/
def advance (h : Hdr) (n : Nat) (w : Work) : Work :=
  ⟨(w.st.setWc (BitVec.ofNat 25 (scanAddress h + n))).setEfo (BitVec.ofNat 25 (h.off.toNat + n)), w.ev⟩

/-- Steps 2 to 5 of a packet whose header was parsed (R90). -/
def packetBody (h : Hdr) (data : List Byte) (w : Work) : Work :=
  advance h data.length (overrunCheck h data.length (storePacket h data (tableLengthCheck h (offsetCheck h w))))

/-- A packet whose header was parsed (R90). -/
def runPacket (p : Packet) (s : State) : Host.Outcome State Fault Refusal :=
  finishPacket p.m p.ts (packetBody p.hdr p.data ⟨s, 0⟩)

/-- A packet that ends inside its own header: only `COR` and the event, then step 6 (R91). -/
def runMalformed (m : Bool) (ts : Timestamp) (s : State) : Host.Outcome State Fault Refusal :=
  finishPacket m ts (Work.corrupt ⟨s, 0⟩ .malformedHeader)

/-- What RESET writes (43_control_ops.md R125): the template into the header region, every register to its reset value;
the data region, and what lies outside the block, stay. -/
def State.resetInstance (s : State) : State :=
  ((((((s.setBuf (Memory.writeBytes s.buf 0 Config.template.toList)).setWc 623).setEfo 0).setCor false).setLts 0).setLtv
    false).setFsm .accumulating

end Sys2Proof.Machine
end

