-- ==== Sys2Proof/Machine/Control.lean ====
section
/-! DEFINITION. The meanings of the control operations (43_control_ops.md). -/

namespace Sys2Proof.Machine

/-- ABORT: `EFO <- 0`, `COR <- 0`; no frame, no event (R126). -/
def execAbort (s : State) : Host.Outcome State Fault Refusal := deliver none ⟨s.frameReset, 0⟩

/-- RESET: the reset state of the instance; no frame, no event (R125). -/
def execReset (s : State) : Host.Outcome State Fault Refusal := deliver none ⟨s.resetInstance, 0⟩

end Sys2Proof.Machine
end

