-- ==== Sys2Proof/Machine/Pkt.lean ====
section
/-! DEFINITION. The meanings of the seven forms of PKT (40_header_parser.md R71 to R77, 41_reassembly.md R90). -/

namespace Sys2Proof.Machine

/-- PKT.TRUNC: the payload ends inside its own header (R77, R91). -/
def execPktTrunc (_pay : List Byte) (m : Bool) (ts : Timestamp) (s : State) : Host.Outcome State Fault Refusal :=
  runMalformed m ts s

/-- PKT.RQ: restart-marker header, quantization-table header and tables (R74). -/
def execPktRQ (h : MainHeader) (_r : RestartHeader) (k : QuantHeader) (tab1 tab2 data : List Byte) (m : Bool)
    (ts : Timestamp) (s : State) : Host.Outcome State Fault Refusal :=
  runPacket ⟨tablesHdr h true k tab1 tab2, data, m, ts⟩ s

/-- PKT.RQX: restart-marker header and a quantization-table header whose declared length is not 128 (R76). -/
def execPktRQX (h : MainHeader) (_r : RestartHeader) (k : QuantHeader) (data : List Byte) (m : Bool) (ts : Timestamp)
    (s : State) : Host.Outcome State Fault Refusal :=
  runPacket ⟨badLengthHdr h true k, data, m, ts⟩ s

/-- PKT.Q: quantization-table header and tables (R73). -/
def execPktQ (h : MainHeader) (k : QuantHeader) (tab1 tab2 data : List Byte) (m : Bool) (ts : Timestamp) (s : State) :
    Host.Outcome State Fault Refusal :=
  runPacket ⟨tablesHdr h false k tab1 tab2, data, m, ts⟩ s

/-- PKT.QX: a quantization-table header whose declared length is not 128 (R75). -/
def execPktQX (h : MainHeader) (k : QuantHeader) (data : List Byte) (m : Bool) (ts : Timestamp) (s : State) :
    Host.Outcome State Fault Refusal :=
  runPacket ⟨badLengthHdr h false k, data, m, ts⟩ s

/-- PKT.R: restart-marker header (R72). -/
def execPktR (h : MainHeader) (_r : RestartHeader) (data : List Byte) (m : Bool) (ts : Timestamp) (s : State) :
    Host.Outcome State Fault Refusal :=
  runPacket ⟨plainHdr h true, data, m, ts⟩ s

/-- PKT.B: the base form (R71). -/
def execPktB (h : MainHeader) (data : List Byte) (m : Bool) (ts : Timestamp) (s : State) :
    Host.Outcome State Fault Refusal :=
  runPacket ⟨plainHdr h false, data, m, ts⟩ s

end Sys2Proof.Machine
end

