-- ==== Sys2Proof/Machine/Dispatch.lean ====
section
/-! DEFINITION. One arm per row of spec/opcode_table.json. -/

namespace Sys2Proof.Machine

def exec (i : Instr) (s : State) : Host.Outcome State Fault Refusal :=
  match i with
  | .pktTrunc pay m ts => Sys2Proof.Machine.execPktTrunc pay m ts s
  | .pktRQ h r k tab1 tab2 data m ts => Sys2Proof.Machine.execPktRQ h r k tab1 tab2 data m ts s
  | .pktRQX h r k data m ts => Sys2Proof.Machine.execPktRQX h r k data m ts s
  | .pktQ h k tab1 tab2 data m ts => Sys2Proof.Machine.execPktQ h k tab1 tab2 data m ts s
  | .pktQX h k data m ts => Sys2Proof.Machine.execPktQX h k data m ts s
  | .pktR h r data m ts => Sys2Proof.Machine.execPktR h r data m ts s
  | .pktB h data m ts => Sys2Proof.Machine.execPktB h data m ts s
  | .abort => Sys2Proof.Machine.execAbort s
  | .reset => Sys2Proof.Machine.execReset s

end Sys2Proof.Machine
end

