-- ==== Sys2Proof/Machine/Step.lean ====
section
/-! DEFINITION. One step of the machine: the next command issued is taken and its operation runs whole
(20_memory.md R42, R43); with none issued the block holds its state and waits (60_exceptions.md R154). -/

namespace Sys2Proof.Machine

/-- One step. The commands are taken in the order of issue, one operation a step (log entry 1). -/
def step (s : State) : Host.Outcome State Fault Refusal :=
  match s.port with
  | [] => .next s
  | c :: rest =>
    match decode c with
    | .ok i => exec i (s.setPort rest)
    | .error .untruePayloadLength => .refused .untruePayloadLength

/-- The state with a table word's command issued ahead of all others, so that the very next step takes it
(log entries 3 and 4). -/
def State.withFetchWord (s : State) (nbits w : Nat) : State := s.setPort (tableCommand nbits w :: s.port)

end Sys2Proof.Machine
end

