-- ==== Sys2Proof/WellFormed.lean ====
section
/-! DEFINITION. Which terms of `Instr` stand for an operation the command port can carry: the form's own predicates of
30_encoding.md R57 hold, the tables have 64 bytes each (R54), and the payload fits its 16-bit length (R5). The
predicates themselves stand in Sys2Proof/Decode.lean. -/

namespace Sys2Proof

/-- The restart and quantization predicates of a main header are as the form wants them (R57). -/
def MainHeader.selects (h : MainHeader) (rst qh : Bool) : Bool :=
  isRestartType h.typ == rst && hasQuantHeader h.q h.off == qh

/-- Both tables have their 64 bytes (R54). -/
def tablesWellFormed (tab1 tab2 : List Byte) : Bool := tab1.length == 64 && tab2.length == 64

/-- A payload of `n` bytes can be carried: `n <= MAX_PAYLOAD` (R5). -/
def fitsPayload (n : Nat) : Bool := decide (n ≤ 65535)

/-- The instruction is one the command port can carry and the decoder answers. -/
def Instr.wellFormed : Instr → Bool
  | .pktTrunc pay _ _ => isTruncated pay
  | .pktRQ h _ k tab1 tab2 data _ _ =>
    h.selects true true && announcesTables k.qlen && tablesWellFormed tab1 tab2 && fitsPayload (144 + data.length)
  | .pktRQX h _ k data _ _ => h.selects true true && !announcesTables k.qlen && fitsPayload (16 + data.length)
  | .pktQ h k tab1 tab2 data _ _ =>
    h.selects false true && announcesTables k.qlen && tablesWellFormed tab1 tab2 && fitsPayload (140 + data.length)
  | .pktQX h k data _ _ => h.selects false true && !announcesTables k.qlen && fitsPayload (12 + data.length)
  | .pktR h _ data _ _ => h.selects true false && fitsPayload (12 + data.length)
  | .pktB h data _ _ => h.selects false false && fitsPayload (8 + data.length)
  | .abort => true
  | .reset => true

end Sys2Proof
end

