-- ==== Sys2Proof/Safety.lean ====
section
/-! DEFINITION. The terms claims are stated in: what corrupts a frame, the invariants of 10_state.md section 6, what an
emitted frame looks like, runs of operations, and the pseudo-operation FRAME of 30_encoding.md R64. -/

namespace Sys2Proof.Machine

/-- An outcome is safe when the machine goes on. -/
def Safe (o : Host.Outcome State Fault Refusal) : Prop := ∃ t, o = .next t

/-- The three corruption events as a vector, bit 0 the offset mismatch, bit 1 the malformed header, bit 2 the overrun
(R141). -/
def corruptionEvents (mismatch malformed overrun : Bool) : EventVec :=
  BitVec.ofNat 5 (mismatch.toNat + 2 * malformed.toNat + 4 * overrun.toNat)

/-- The frame is corrupted once a packet's steps 2 to 5 are done: it was before, or the offset mismatches, or the
declared table length is bad, or the copy overruns (R92, R93, R99). -/
def FrameCorrupted (s : State) (p : Packet) : Prop :=
  s.cor = true ∨ p.hdr.off.toNat ≠ s.efo.toNat ∨ (p.hdr.qh = true ∧ p.hdr.qt = false) ∨
    Config.bufCap < 623 + p.hdr.off.toNat + p.data.length

/-- An address of the header region that a patch may write (R25, R32). -/
def patchable (a : Nat) : Bool :=
  decide (25 ≤ a ∧ a < 89) || decide (94 ≤ a ∧ a < 158) || decide (163 ≤ a ∧ a < 167)

/-- The header region holds the template outside the patchable addresses (R25). -/
def HeaderRegionOk (s : State) : Prop :=
  ∀ (a : Nat) (h : a < 623), patchable a = false → s.byte a = some Config.template[a]

/-- What the operations since the last boundary, ABORT or RESET have brought: the scan data of the PKTs in order of
arrival, and whether there was a PKT at all. A record of the past, not state of the block. -/
structure History where
  scan    : List Byte
  started : Bool
  deriving DecidableEq, Repr

/-- The history after one more operation. -/
def History.next (g : History) (i : Instr) : History :=
  match i.operation with
  | .abort => ⟨[], false⟩
  | .reset => ⟨[], false⟩
  | .pkt =>
    if isMarkerPacket i then ⟨[], false⟩
    else match packetOf i with
      | some p => ⟨g.scan ++ p.data, true⟩
      | none => ⟨g.scan, true⟩

/-- Offset tracking (R26): while the frame is not corrupted, the data region up to `EFO` holds the scan data that has
arrived, which fits the buffer, and the cursor stands behind it once there was a packet. -/
def ScanTracked (s : State) (g : History) : Prop :=
  s.cor = false →
    s.efo.toNat = g.scan.length ∧ 623 + g.scan.length ≤ Config.bufCap ∧
      (∀ k (h : k < g.scan.length), s.byte (623 + k) = some g.scan[k]) ∧
      (g.started = true → s.wc.toNat = 623 + s.efo.toNat)

/-- An emitted frame is within the bounds of R121 and R112: the length is that of its bytes, between 623 and `BUF_CAP`,
the key flag is set, and the header bytes outside the patchable addresses are the template's. -/
def FrameOk (f : Frame) : Prop :=
  f.length.toNat = f.bytes.length ∧ 623 ≤ f.bytes.length ∧ f.bytes.length ≤ Config.bufCap ∧ f.key = true ∧
    ∀ (a : Nat) (h : a < 623), patchable a = false → f.bytes.getD a 0 = Config.template[a]

/-- Every frame handed over so far is as `FrameOk` says. -/
def FramesOk (s : State) : Prop := ∀ r ∈ s.results, ∀ f, r.frame = some f → FrameOk f

/-- The state between operations, all invariants together. -/
def Inv (s : State) : Prop :=
  Memory.wf s.buf = true ∧ s.fsm = .accumulating ∧ HeaderRegionOk s ∧ FramesOk s

/-- Between frames: nothing of a frame has arrived and nothing is corrupted (R145). -/
def Clean (s : State) : Prop := s.efo = 0 ∧ s.cor = false

/-- Two instances that no sequence of operations tells apart by the frames it makes them emit. -/
def SameForFrames (s t : State) : Prop :=
  s.efo = t.efo ∧ s.cor = t.cor ∧ (∀ a, a < 623 → s.byte a = t.byte a) ∧
    (s.cor = false → ∀ a, 623 ≤ a → a < 623 + s.efo.toNat → s.byte a = t.byte a)

/-- A finite sequence of operations on one instance (R172), stopping at the first that does not answer a next state. -/
def runInstrs : List Instr → State → Host.Outcome State Fault Refusal
  | [], s => .next s
  | i :: is, s =>
    match exec i s with
    | .next t => runInstrs is t
    | .fault r => .fault r
    | .refused r => .refused r

/-- The frame in the last result, if there is one. -/
def lastFrame (s : State) : Option Frame := s.results.getLast?.bind Result.frame

/-- The results handed over after the first `n`. -/
def resultsFrom (n : Nat) (s : State) : List Result := s.results.drop n

/-- The first packet of a FRAME (R64): the form follows from the type and from whether tables are given. -/
def frameFirst (h : MainHeader) (r : RestartHeader) (tabs : Option (QuantHeader × List Byte × List Byte))
    (data : List Byte) (m : Bool) (ts : Timestamp) : Instr :=
  match isRestartType h.typ, tabs with
  | true, some (k, tab1, tab2) => .pktRQ h r k tab1 tab2 data m ts
  | true, none => .pktR h r data m ts
  | false, some (k, tab1, tab2) => .pktQ h k tab1 tab2 data m ts
  | false, none => .pktB h data m ts

/-- A later packet of a FRAME, at offset `off`. -/
def frameLater (h : MainHeader) (r : RestartHeader) (off : Nat) (data : List Byte) (m : Bool) (ts : Timestamp) : Instr :=
  if isRestartType h.typ then .pktR { h with off := BitVec.ofNat 24 off } r data m ts
  else .pktB { h with off := BitVec.ofNat 24 off } data m ts

/-- The packets of a FRAME after the first; the last one carries the marker. -/
def frameRest (h : MainHeader) (r : RestartHeader) (ts : Timestamp) : Nat → List (List Byte) → List Instr
  | _, [] => []
  | off, [d] => [frameLater h r off d true ts]
  | off, d :: e :: ds => frameLater h r off d false ts :: frameRest h r ts (off + d.length) (e :: ds)

/-- `FRAME` with its scan data cut into pieces (R64): contiguous offsets from 0, the marker on the last packet. -/
def frameOps (h : MainHeader) (r : RestartHeader) (tabs : Option (QuantHeader × List Byte × List Byte))
    (ts : Timestamp) : List (List Byte) → List Instr
  | [] => []
  | [d] => [frameFirst h r tabs d true ts]
  | d :: e :: ds => frameFirst h r tabs d false ts :: frameRest h r ts d.length (e :: ds)

end Sys2Proof.Machine
end

