-- ==== Sys2Proof/Certificates/Slice0/Obligations.lean ====
section
/-! DEFINITION. The statements for the provers. Each docstring names the rules of spec/ it formalises. "Regular forms"
are PKT.B, PKT.R, PKT.Q, PKT.RQ, PKT.QX and PKT.RQX: the constructors for which `packetOf` answers. -/

open Sys2Proof Sys2Proof.Machine

/-! ### Encoding -/

/-- Payloads written out byte by byte from 40_header_parser.md's examples decode to what the rules say (R71, R72, R75,
R76, R77), and the two control commands to theirs (R63). -/
def Obligations.SampleWordsDecode : Prop :=
  decode ⟨false, false, [0x00, 0x00, 0x01, 0xF4, 0x01, 0xC8, 0x28, 0x1E, 0xAA, 0xBB], 10, true, 7⟩ =
      .ok (.pktB ⟨0, 500, 1, 200, 40, 30⟩ [0xAA, 0xBB] true 7) ∧
    decode ⟨false, false, [0x00, 0x00, 0x00, 0x00, 0x41, 0x32, 0x28, 0x1E, 0x00, 0x10, 0xFF, 0xFF, 0x55], 13, false, 0⟩ =
      .ok (.pktR ⟨0, 0, 65, 50, 40, 30⟩ ⟨0x00, 0x10, 0xFF, 0xFF⟩ [0x55] false 0) ∧
    decode ⟨false, false, [0x00, 0x00, 0x00, 0x00, 0x01, 0xFF, 0x28, 0x1E, 0x00, 0x00, 0x00, 0x40, 0x77, 0x77], 14, false, 0⟩ =
      .ok (.pktQX ⟨0, 0, 1, 255, 40, 30⟩ ⟨0, 0, 64⟩ [0x77, 0x77] false 0) ∧
    decode ⟨false, false, [0x00, 0x00, 0x00, 0x00, 0x7F, 0x80, 0x01, 0x01, 0xAA, 0xAA, 0xAA, 0xAA, 0x00, 0x00, 0x00, 0x00],
        16, false, 0⟩ = .ok (.pktRQX ⟨0, 0, 127, 128, 1, 1⟩ ⟨0xAA, 0xAA, 0xAA, 0xAA⟩ ⟨0, 0, 0⟩ [] false 0) ∧
    decode ⟨false, false, [0x00, 0x00, 0x00, 0x00, 0x01, 0xC8, 0x28, 0x1E, 0x00, 0x00, 0x00], 11, false, 0⟩ =
      .ok (.pktTrunc [0x00, 0x00, 0x00, 0x00, 0x01, 0xC8, 0x28, 0x1E, 0x00, 0x00, 0x00] false 0) ∧
    decode ⟨false, true, [], 0, false, 0⟩ = .ok .abort ∧
    decode ⟨true, false, [], 0, false, 0⟩ = .ok .reset

/-- Decoding the command of a well-formed instruction gives the instruction back (R50 to R54, R57, R59, R63). -/
def Obligations.DecodeOfEncodeIsTheInstruction : Prop :=
  ∀ i : Instr, i.wellFormed = true → decode (encode i) = .ok i

/-- Encoding what a PKT command decodes to gives the command back: no bit of it is dropped (R50 to R54, R60). -/
def Obligations.EncodeOfDecodeIsTheCommand : Prop :=
  ∀ (c : Command) (i : Instr), c.operation = .pkt → decode c = .ok i → encode i = c

/-- The decoder answers well-formed instructions only. -/
def Obligations.DecodedInstructionIsWellFormed : Prop :=
  ∀ (c : Command) (i : Instr), decode c = .ok i → i.wellFormed = true

/-- The seven header forms are exhaustive and exclusive: every payload of every length 0 to 65535 stands for exactly
one well-formed instruction, and that is one of the seven (R81, R62). -/
def Obligations.EveryPayloadIsExactlyOneForm : Prop :=
  ∀ (pay : List Byte) (m : Bool) (ts : Timestamp), pay.length ≤ 65535 →
    ∃ i : Instr, (i.wellFormed = true ∧ encode i = pktCommand pay m ts ∧ (∃ f, i.form = some f)) ∧
      ∀ j : Instr, j.wellFormed = true → encode j = pktCommand pay m ts → j = i

/-- The reset line selects RESET whatever the selector is, else the selector picks ABORT or PKT (R63). -/
def Obligations.CommandLinesSelectTheOperation : Prop :=
  ∀ c : Command, (c.rst = true → decode c = .ok .reset) ∧
    (c.rst = false → c.op = true → decode c = .ok .abort) ∧
    (c.rst = false → c.op = false → c.pay.length = c.len.toNat →
      ∃ i, decode c = .ok i ∧ i.operation = .pkt ∧ encode i = c)

/-- A payload is PKT.TRUNC exactly when one of the four length tests holds, each reading bytes that exist (R59, R77). -/
def Obligations.TruncatedExactlyByTheFourLengthTests : Prop :=
  ∀ (pay : List Byte) (m : Bool) (ts : Timestamp),
    (decodePayload pay m ts).form = some .truncated ↔
      pay.length < 8 ∨
      ((64 ≤ (payByte pay 4).toNat ∧ (payByte pay 4).toNat ≤ 127) ∧ pay.length < 12) ∨
      ∃ qb, qb = (if 64 ≤ (payByte pay 4).toNat ∧ (payByte pay 4).toNat ≤ 127 then 12 else 8) ∧
        (128 ≤ (payByte pay 5).toNat ∧ payByte pay 1 = 0 ∧ payByte pay 2 = 0 ∧ payByte pay 3 = 0) ∧
        (pay.length < qb + 4 ∨
          (payByte pay (qb + 2) = 0x00 ∧ payByte pay (qb + 3) = 0x80 ∧ pay.length < qb + 132))

/-- The parser's pseudocode and the decoder agree on every payload: the same header record, `Malformed` exactly for
PKT.TRUNC, and the scan data is `PAY[H .. L)` (R70, R55). -/
def Obligations.ParserAgreesWithTheDecoder : Prop :=
  ∀ (pay : List Byte) (m : Bool) (ts : Timestamp),
    packetOf (decodePayload pay m ts) = (parse pay).map (fun h => ⟨h, pay.drop h.hlen, m, ts⟩) ∧
      (parse pay = none ↔ (decodePayload pay m ts).form = some .truncated)

/-- The header length of every parsed payload is the formula of R58, and it lies within the payload. -/
def Obligations.HeaderLengthFormula : Prop :=
  ∀ (pay : List Byte) (h : Hdr), parse pay = some h →
    h.hlen = 8 + 4 * h.rst.toNat + 4 * h.qh.toNat + 128 * h.qt.toNat ∧ 8 ≤ h.hlen ∧ h.hlen ≤ pay.length ∧
      ∀ m ts, (decodePayload pay m ts).form =
        some (if h.hlen = 8 then .base
          else if h.hlen = 12 then (if h.qh then .quantBad else .restart)
          else if h.hlen = 16 then .restartQuantBad
          else if h.hlen = 140 then .quant else .restartQuant)

/-- The parser reads nothing of a payload but its length and its first 144 bytes (R78). -/
def Obligations.ParserReadsOnlyTheHeaderBytes : Prop :=
  ∀ pay pay' : List Byte, pay.length = pay'.length → pay.take 144 = pay'.take 144 → parse pay = parse pay'

/-- The masks of the form table select, first fit, the form the decoder answers, for every payload that is not
truncated (R65). -/
def Obligations.TableMasksSelectTheDecodedForm : Prop :=
  ∀ (pay : List Byte) (m : Bool) (ts : Timestamp), isTruncated pay = false →
    (decodePayload pay m ts).form = tableForm pay

/-! ### Steps -/

/-- A step takes the first command issued and runs the instruction it decodes to, the command removed from the port
(R42, R43). -/
def Obligations.StepRunsTheDecodedInstruction : Prop :=
  ∀ (s : State) (c : Command) (rest : List Command) (i : Instr), s.port = c :: rest → decode c = .ok i →
    step s = exec i { s with port := rest }

/-- With no command issued the block holds its state and waits (R154, R167). -/
def Obligations.StepWaitsWhileNothingIsIssued : Prop :=
  ∀ s : State, s.port = [] → step s = .next s

/-- A PKT command whose `L` is not the number of its payload bytes is outside the domain and refused by name (U15; the
model's form of it is log entry 8). -/
def Obligations.StepRefusesAnUntrueLength : Prop :=
  ∀ (s : State) (c : Command) (rest : List Command), s.port = c :: rest → c.operation = .pkt →
    c.pay.length ≠ c.len.toNat → step s = .refused .untruePayloadLength

/-- Issuing the commands of a sequence of well-formed instructions and stepping once for each is running the sequence:
the statements about `exec` reach every run (R43, R172). -/
def Obligations.RunOfIssuedCommandsIsTheSequence : Prop :=
  ∀ (is : List Instr) (rest : List Command) (s : State), (∀ i ∈ is, i.wellFormed = true) →
    Sys2Proof.core.run is.length { s with port := is.map encode ++ rest } = runInstrs is { s with port := rest }

/-- The operation is total: every operation completes from every state and hands over exactly one result (R90, R147). -/
def Obligations.EveryOperationCompletes : Prop :=
  ∀ (i : Instr) (s : State), ∃ t r, exec i s = .next t ∧ t.results = s.results ++ [r] ∧ t.port = s.port

/-! ### PKT without the marker: the whole next state -/

/-- PKT.B and PKT.R without the marker: offset check, scan copy, overrun check, cursor, expected offset, one result
without a frame, and nothing else (R71, R72, R90). -/
def Obligations.PlainPacketNextState : Prop :=
  ∀ (h : MainHeader) (r : RestartHeader) (data : List Byte) (ts : Timestamp) (s t : State),
    t = { s with
      buf := Memory.writeBytes s.buf (623 + h.off.toNat) data
      wc := BitVec.ofNat 25 (623 + h.off.toNat + data.length)
      efo := BitVec.ofNat 25 (h.off.toNat + data.length)
      cor := s.cor || decide (h.off.toNat ≠ s.efo.toNat) || decide (Config.bufCap < 623 + h.off.toNat + data.length)
      results := s.results ++ [⟨none, corruptionEvents (decide (h.off.toNat ≠ s.efo.toNat)) false
        (decide (Config.bufCap < 623 + h.off.toNat + data.length))⟩] } →
    exec (.pktB h data false ts) s = .next t ∧ exec (.pktR h r data false ts) s = .next t

/-- PKT.Q and PKT.RQ without the marker: as the plain forms, and height, width and both tables are patched into the
header region first (R73, R74, R90, R94, R95). -/
def Obligations.TablePacketNextState : Prop :=
  ∀ (h : MainHeader) (r : RestartHeader) (k : QuantHeader) (tab1 tab2 data : List Byte) (ts : Timestamp) (s t : State),
    t = { s with
      buf := Memory.writeBytes
        (Memory.writeBytes (Memory.writeBytes (Memory.writeBytes (Memory.writeBytes s.buf
          163 [BitVec.ofNat 8 (h.h8.toNat * 8 / 256), BitVec.ofNat 8 (h.h8.toNat * 8)])
          165 [BitVec.ofNat 8 (h.w8.toNat * 8 / 256), BitVec.ofNat 8 (h.w8.toNat * 8)])
          25 tab1) 94 tab2) (623 + h.off.toNat) data
      wc := BitVec.ofNat 25 (623 + h.off.toNat + data.length)
      efo := BitVec.ofNat 25 (h.off.toNat + data.length)
      cor := s.cor || decide (h.off.toNat ≠ s.efo.toNat) || decide (Config.bufCap < 623 + h.off.toNat + data.length)
      results := s.results ++ [⟨none, corruptionEvents (decide (h.off.toNat ≠ s.efo.toNat)) false
        (decide (Config.bufCap < 623 + h.off.toNat + data.length))⟩] } →
    exec (.pktQ h k tab1 tab2 data false ts) s = .next t ∧ exec (.pktRQ h r k tab1 tab2 data false ts) s = .next t

/-- PKT.QX and PKT.RQX without the marker: as the plain forms, and the frame is flagged corrupted with
MALFORMED_HEADER (R75, R76, R90, R93). -/
def Obligations.BadTableLengthPacketNextState : Prop :=
  ∀ (h : MainHeader) (r : RestartHeader) (k : QuantHeader) (data : List Byte) (ts : Timestamp) (s t : State),
    t = { s with
      buf := Memory.writeBytes s.buf (623 + h.off.toNat) data
      wc := BitVec.ofNat 25 (623 + h.off.toNat + data.length)
      efo := BitVec.ofNat 25 (h.off.toNat + data.length)
      cor := true
      results := s.results ++ [⟨none, corruptionEvents (decide (h.off.toNat ≠ s.efo.toNat)) true
        (decide (Config.bufCap < 623 + h.off.toNat + data.length))⟩] } →
    exec (.pktQX h k data false ts) s = .next t ∧ exec (.pktRQX h r k data false ts) s = .next t

/-- PKT.TRUNC: `COR` and MALFORMED_HEADER and nothing else; with the marker it is a boundary that discards (R91). -/
def Obligations.TruncatedPacketOnlyFlags : Prop :=
  ∀ (pay : List Byte) (ts : Timestamp) (s : State),
    exec (.pktTrunc pay false ts) s =
        .next { s with cor := true, results := s.results ++ [⟨none, corruptionEvents false true false⟩] } ∧
      exec (.pktTrunc pay true ts) s =
        .next { s with
          efo := 0, cor := false, fsm := .accumulating
          results := s.results ++ [⟨none, corruptionEvents false true false ||| 0b10000⟩] }

/-! ### Control operations -/

/-- ABORT clears `EFO` and `COR`, reports nothing and leaves everything else alone (R126). -/
def Obligations.AbortClearsThePerFrameState : Prop :=
  ∀ s : State, exec .abort s = .next { s with efo := 0, cor := false, results := s.results ++ [⟨none, 0⟩] }

/-- RESET sets the header region to the template and every register to its reset value, and reports nothing (R125). The
rest is the model's choice: the data region stays, the first of the two readings R125 allows of a later RESET (DESIGN
CHOICE, log entry 7), and so do the commands issued (log entry 1) and the results before it (log entry 2). -/
def Obligations.ResetSetsEveryElement : Prop :=
  ∀ s : State, ∃ t, exec .reset s = .next t ∧
    (∀ (a : Nat) (h : a < 623), t.byte a = some Config.template[a]) ∧
    (∀ a, 623 ≤ a → t.byte a = s.byte a) ∧
    t.wc = 623 ∧ t.efo = 0 ∧ t.cor = false ∧ t.lts = 0 ∧ t.ltv = false ∧ t.fsm = .accumulating ∧
    t.port = s.port ∧ t.results = s.results ++ [⟨none, 0⟩]

/-- The state right after reset (R13, R160); the data region is the model's free value (log entry 7), and the empty
port and result list are the model's choice (log entries 1 and 2). -/
def Obligations.ResetStateValues : Prop :=
  (∀ (a : Nat) (h : a < 623), State.reset.byte a = some Config.template[a]) ∧
    (∀ a, 623 ≤ a → a < Config.bufCap → State.reset.byte a = some (Config.dataByte a)) ∧
    State.reset.wc = 623 ∧ State.reset.efo = 0 ∧ State.reset.cor = false ∧ State.reset.lts = 0 ∧
    State.reset.ltv = false ∧ State.reset.fsm = .accumulating ∧ State.reset.port = [] ∧ State.reset.results = []

/-! ### The steps of PKT, for every regular form with and without the marker -/

/-- `WC` is assigned `623 + off + n`, with or without the marker, and not clamped (R100); `EFO` becomes `off + n` of the
packet itself, and a boundary then clears it (R101, R114). -/
def Obligations.CursorAndExpectedOffsetFollowThePacket : Prop :=
  ∀ (i : Instr) (p : Packet) (s : State), i.wellFormed = true → packetOf i = some p →
    ∃ t, exec i s = .next t ∧ t.wc.toNat = 623 + p.hdr.off.toNat + p.data.length ∧
      t.efo.toNat = if p.m then 0 else p.hdr.off.toNat + p.data.length

/-- The offset check (R92): an offset other than `EFO`, either way, sets `COR` and raises OFFSET_MISMATCH; an equal one
raises nothing and leaves `COR` at its value, set or clear, where nothing else corrupts the frame; `EFO` of `2^24` or
more equals no offset. -/
def Obligations.OffsetMismatchSetsCorrupted : Prop :=
  ∀ (i : Instr) (p : Packet) (s : State), packetOf i = some p →
    ∃ t r, exec i s = .next t ∧ t.results = s.results ++ [r] ∧
      (r.events.has .offsetMismatch = true ↔ p.hdr.off.toNat ≠ s.efo.toNat) ∧
      (p.hdr.off.toNat ≠ s.efo.toNat → p.m = false → t.cor = true) ∧
      (p.hdr.off.toNat ≠ s.efo.toNat → p.m = true → r.frame = none) ∧
      (s.cor = true → p.m = false → t.cor = true) ∧
      (p.hdr.off.toNat = s.efo.toNat → (p.hdr.qh = true → p.hdr.qt = true) →
        623 + p.hdr.off.toNat + p.data.length ≤ Config.bufCap → p.m = false → t.cor = s.cor) ∧
      (2 ^ 24 ≤ s.efo.toNat → r.events.has .offsetMismatch = true)

/-- A declared table length other than 128 flags the frame and the packet goes on like any other: header region
unchanged, scan data from payload byte 12 or 16 copied, cursor and expected offset updated (R93). -/
def Obligations.BadTableLengthFlagsAndContinues : Prop :=
  ∀ (i : Instr) (p : Packet) (s : State), i.wellFormed = true → packetOf i = some p → p.hdr.qh = true → p.hdr.qt = false →
    ∃ t r, exec i s = .next t ∧ t.results = s.results ++ [r] ∧ r.events.has .malformedHeader = true ∧
      r.frame = none ∧ (p.m = false → t.cor = true) ∧ (∀ a, a < 623 → t.byte a = s.byte a) ∧
      (p.hdr.hlen = 12 ∨ p.hdr.hlen = 16) ∧ i.payload.drop p.hdr.hlen = p.data ∧
      (∀ k (h : k < p.data.length), t.byte (623 + k) = some p.data[k]) ∧
      t.wc.toNat = 623 + p.data.length ∧ t.efo.toNat = if p.m then 0 else p.data.length

/-- The header patch (R94, R95): exactly when the offset is 0, `Q >= 128` and the declared length is 128, height and
width (payload bytes 7 and 6 times 8, most significant byte first) go to 163 and 165, the two tables that end the header
go to 25 and 94 in payload order, and every other header byte keeps its value; otherwise all of them keep theirs; whatever
`COR` is, with or without the marker. -/
def Obligations.TablePacketPatchesTheHeader : Prop :=
  ∀ (i : Instr) (p : Packet) (s : State), i.wellFormed = true → packetOf i = some p →
    (p.hdr.qt = true ↔ p.hdr.off.toNat = 0 ∧ 128 ≤ p.hdr.q.toNat ∧ p.hdr.qlen.toNat = 128) ∧
    ∃ t, exec i s = .next t ∧
      (p.hdr.qt = true →
        t.byte 163 = some (BitVec.ofNat 8 ((payByte i.payload 7).toNat * 8 / 256)) ∧
        t.byte 164 = some (BitVec.ofNat 8 ((payByte i.payload 7).toNat * 8)) ∧
        t.byte 165 = some (BitVec.ofNat 8 ((payByte i.payload 6).toNat * 8 / 256)) ∧
        t.byte 166 = some (BitVec.ofNat 8 ((payByte i.payload 6).toNat * 8)) ∧
        (∀ j, j < 64 → t.byte (25 + j) = some (payByte i.payload (p.hdr.hlen - 128 + j))) ∧
        (∀ j, j < 64 → t.byte (94 + j) = some (payByte i.payload (p.hdr.hlen - 64 + j))) ∧
        (∀ a, a < 623 → patchable a = false → t.byte a = s.byte a)) ∧
      (p.hdr.qt = false → ∀ a, a < 623 → t.byte a = s.byte a)

/-- No other condition writes below 623: a packet that does not have offset 0, `Q >= 128` and a declared length of 128,
a truncated packet and ABORT leave the header region alone (R96). -/
def Obligations.NoOtherConditionWritesTheHeader : Prop :=
  ∀ (i : Instr) (s : State), i.wellFormed = true → i ≠ .reset →
    (∀ p, packetOf i = some p → ¬ (p.hdr.off.toNat = 0 ∧ 128 ≤ p.hdr.q.toNat ∧ p.hdr.qlen.toNat = 128)) →
    ∃ t, exec i s = .next t ∧ ∀ a, a < 623 → t.byte a = s.byte a

/-- No PKT whose fragment offset is not 0 changes any byte of the header region (R28). -/
def Obligations.OnlyTheFirstFragmentWritesTheHeader : Prop :=
  ∀ (i : Instr) (p : Packet) (s : State), i.wellFormed = true → packetOf i = some p → p.hdr.off.toNat ≠ 0 →
    ∃ t, exec i s = .next t ∧ ∀ a, a < 623 → t.byte a = s.byte a

/-- The scan copy: byte `k` of the scan data at `623 + off + k`, whatever `COR` is, as far as the buffer reaches (R98). -/
def Obligations.ScanCopyStoresTheData : Prop :=
  ∀ (i : Instr) (p : Packet) (s : State), packetOf i = some p →
    ∃ t, exec i s = .next t ∧
      (∀ k (h : k < p.data.length), 623 + p.hdr.off.toNat + k < Config.bufCap →
        t.byte (623 + p.hdr.off.toNat + k) = some p.data[k]) ∧
      (∀ k, Config.bufCap ≤ 623 + p.hdr.off.toNat + k → t.byte (623 + p.hdr.off.toNat + k) = none)

/-- The scan data is what follows the header in the payload: `n = L - H`, with `0 <= n <= 65527` (R97, R55). -/
def Obligations.ScanDataFollowsTheHeader : Prop :=
  ∀ (i : Instr) (p : Packet), i.wellFormed = true → packetOf i = some p →
    (encode i).len.toNat = (encode i).pay.length ∧ (encode i).pay.drop p.hdr.hlen = p.data ∧
      p.hdr.hlen ≤ (encode i).len.toNat ∧ p.data.length = (encode i).len.toNat - p.hdr.hlen ∧ p.data.length ≤ 65527

/-- Buffer overrun: raised exactly when `623 + off + n > BUF_CAP`, also with `n = 0`; the bytes below `BUF_CAP` are
stored, no other address exists, the frame is flagged (R99). -/
def Obligations.OverrunIsFlaggedAndClipped : Prop :=
  ∀ (i : Instr) (p : Packet) (s : State), packetOf i = some p →
    ∃ t r, exec i s = .next t ∧ t.results = s.results ++ [r] ∧
      (r.events.has .bufferOverrun = true ↔ Config.bufCap < 623 + p.hdr.off.toNat + p.data.length) ∧
      (Config.bufCap < 623 + p.hdr.off.toNat + p.data.length →
        r.frame = none ∧ (p.m = false → t.cor = true) ∧
        (∀ k (h : k < p.data.length), 623 + p.hdr.off.toNat + k < Config.bufCap →
          t.byte (623 + p.hdr.off.toNat + k) = some p.data[k]) ∧
        (∀ a, Config.bufCap ≤ a → t.byte a = none))

/-- A packet with empty scan data writes no data byte, sets the cursor to `623 + off` and the expected offset to `off`,
and is checked and bounded like any other (R102). -/
def Obligations.EmptyScanData : Prop :=
  ∀ (i : Instr) (p : Packet) (s : State), i.wellFormed = true → packetOf i = some p → p.data = [] →
    ∃ t r, exec i s = .next t ∧ t.results = s.results ++ [r] ∧ (∀ a, 623 ≤ a → t.byte a = s.byte a) ∧
      t.wc.toNat = 623 + p.hdr.off.toNat ∧ t.efo.toNat = (if p.m then 0 else p.hdr.off.toNat) ∧
      (r.events.has .offsetMismatch = true ↔ p.hdr.off.toNat ≠ s.efo.toNat) ∧
      (p.m = true → ¬ FrameCorrupted s p → ∃ f, r.frame = some f ∧ f.bytes.length = 623 + p.hdr.off.toNat)

/-! ### Frames: what an operation leaves unchanged -/

/-- PKT.B, PKT.R, PKT.QX and PKT.RQX store nothing but the scan data: every other byte, the timestamp registers without
the marker, the control state without the marker, the port and the earlier results stay. -/
def Obligations.ScanOnlyPacketFrame : Prop :=
  ∀ (i : Instr) (p : Packet) (s : State), packetOf i = some p → p.hdr.qt = false →
    ∃ t r, exec i s = .next t ∧ t.results = s.results ++ [r] ∧ t.port = s.port ∧
      (∀ a, ¬ (scanAddress p.hdr ≤ a ∧ a < scanAddress p.hdr + p.data.length) → t.byte a = s.byte a) ∧
      (r.frame = none → t.lts = s.lts ∧ t.ltv = s.ltv) ∧ (p.m = false → r.frame = none ∧ t.fsm = s.fsm)

/-- PKT.Q and PKT.RQ store the patch and the scan data and nothing else. -/
def Obligations.TablePacketFrame : Prop :=
  ∀ (i : Instr) (p : Packet) (s : State), i.wellFormed = true → packetOf i = some p → p.hdr.qt = true →
    ∃ t r, exec i s = .next t ∧ t.results = s.results ++ [r] ∧ t.port = s.port ∧
      (∀ a, ¬ (scanAddress p.hdr ≤ a ∧ a < scanAddress p.hdr + p.data.length) →
        ¬ (Config.heightOffset ≤ a ∧ a < Config.heightOffset + 2) → ¬ (Config.widthOffset ≤ a ∧ a < Config.widthOffset + 2) →
        ¬ (Config.qt1Offset ≤ a ∧ a < Config.qt1Offset + 64) → ¬ (Config.qt2Offset ≤ a ∧ a < Config.qt2Offset + 64) →
        t.byte a = s.byte a) ∧
      (r.frame = none → t.lts = s.lts ∧ t.ltv = s.ltv) ∧ (p.m = false → r.frame = none ∧ t.fsm = s.fsm)

/-- The boundary adds nothing to the buffer or the cursor: a marked packet leaves both as the same packet without the
marker does (R103, R115). -/
def Obligations.BoundaryKeepsBufferAndCursor : Prop :=
  ∀ (i : Instr) (s : State), isMarkerPacket i = true →
    ∃ t t', exec i s = .next t ∧ exec (withMarker false i) s = .next t' ∧ t.buf = t'.buf ∧ t.wc = t'.wc

/-! ### The boundary -/

/-- A marked packet of an uncorrupted frame emits: the frame is the buffer's bytes `[0, WC)` as this packet leaves them,
key flag set, with this packet's timestamp, which `LTS` then holds (R110, R111, R112, R117, R120). -/
def Obligations.CleanBoundaryEmitsTheBuffer : Prop :=
  ∀ (i : Instr) (p : Packet) (s : State), i.wellFormed = true → packetOf i = some p → p.m = true →
    ¬ FrameCorrupted s p →
    ∃ t f ev, exec i s = .next t ∧ t.results = s.results ++ [⟨some f, ev⟩] ∧
      f.length = t.wc ∧ f.bytes.length = 623 + p.hdr.off.toNat + p.data.length ∧ f.length.toNat = f.bytes.length ∧
      (∀ a (h : a < f.bytes.length), t.byte a = some f.bytes[a]) ∧ f.key = true ∧ f.ts = p.ts ∧
      t.lts = p.ts ∧ t.ltv = true

/-- A marked packet of a corrupted frame discards: no frame, FRAME_DISCARDED, the timestamp registers untouched and the
diagnostic not evaluated, the buffer as the packet without the marker leaves it (R113). -/
def Obligations.CorruptedBoundaryDiscards : Prop :=
  ∀ (i : Instr) (s : State), isMarkerPacket i = true →
    (∀ p, packetOf i = some p → FrameCorrupted s p) →
    ∃ t t' r, exec i s = .next t ∧ exec (withMarker false i) s = .next t' ∧ t.results = s.results ++ [r] ∧
      r.frame = none ∧ r.events.has .frameDiscarded = true ∧ r.events.has .tsNonincreasing = false ∧
      t.buf = t'.buf ∧ t.lts = s.lts ∧ t.ltv = s.ltv

/-- A boundary always clears `EFO` and `COR`, whether the frame was emitted or not, and leaves the control state
ACCUMULATING (R27, R114, R122). -/
def Obligations.BoundaryAlwaysResetsThePerFrameState : Prop :=
  ∀ (i : Instr) (s : State), isMarkerPacket i = true →
    ∃ t, exec i s = .next t ∧ t.efo = 0 ∧ t.cor = false ∧ t.fsm = .accumulating

/-- The timestamp diagnostic (R116): raised exactly when a frame is emitted, `LTS` was valid before and the packet's
timestamp is not above it, as unsigned numbers; so never on a discard nor on the first emission. -/
def Obligations.TimestampDiagnosticExactly : Prop :=
  ∀ (i : Instr) (s : State), ∃ t r, exec i s = .next t ∧ t.results = s.results ++ [r] ∧
    (r.events.has .tsNonincreasing = true ↔ ∃ f, r.frame = some f ∧ s.ltv = true ∧ f.ts.toNat ≤ s.lts.toNat)

/-- `LTS` and `LTV` change by an emission or RESET only: an emission sets them to the frame's timestamp and 1, whatever
the diagnostic said (R117, R18, R19). -/
def Obligations.TimestampRegistersFollowEmissions : Prop :=
  ∀ (i : Instr) (s : State), i ≠ .reset → ∃ t r, exec i s = .next t ∧ t.results = s.results ++ [r] ∧
    (∀ f, r.frame = some f → t.lts = f.ts ∧ t.ltv = true) ∧ (r.frame = none → t.lts = s.lts ∧ t.ltv = s.ltv)

/-- A single packet at offset 0 with the marker, on a clean instance, emits 623 header bytes and then its scan data
(R111, R120; property P1). -/
def Obligations.SinglePacketFrame : Prop :=
  ∀ (i : Instr) (p : Packet) (s : State), i.wellFormed = true → packetOf i = some p → p.m = true → Clean s →
    p.hdr.off.toNat = 0 → (p.hdr.qh = true → p.hdr.qt = true) →
    ∃ t f, exec i s = .next t ∧ lastFrame t = some f ∧ f.bytes.length = 623 + p.data.length ∧
      f.bytes.drop 623 = p.data ∧ ∀ a, a < 623 → t.byte a = f.bytes[a]?

/-! ### Events, over all operations -/

/-- Each event is its own bit, in the order of R141. -/
def Obligations.EventBitNumbers : Prop :=
  ∀ (v : EventVec) (e : Event), (v.withEvent e).toNat = v.toNat ||| 2 ^ (match e with
    | .offsetMismatch => 0 | .malformedHeader => 1 | .bufferOverrun => 2 | .tsNonincreasing => 3 | .frameDiscarded => 4)

/-- Which events one operation can report together (R143), and which result carries a frame (R119): the controls report
nothing; a truncated packet only MALFORMED_HEADER and the discard; a bad table length and an overrun exclude each other;
the timestamp diagnostic excludes all others; FRAME_DISCARDED is exactly a boundary without a frame. -/
def Obligations.EventCombinations : Prop :=
  ∀ (i : Instr) (s : State), i.wellFormed = true → ∃ t r, exec i s = .next t ∧ t.results = s.results ++ [r] ∧
    (i.operation ≠ .pkt → r = ⟨none, 0⟩) ∧
    (i.form = some .truncated → r.events.has .offsetMismatch = false ∧ r.events.has .bufferOverrun = false) ∧
    (r.events.has .malformedHeader = true → r.events.has .bufferOverrun = false) ∧
    (r.events.has .tsNonincreasing = true → r.events.has .offsetMismatch = false ∧
      r.events.has .malformedHeader = false ∧ r.events.has .bufferOverrun = false ∧ r.events.has .frameDiscarded = false) ∧
    (r.events.has .frameDiscarded = true ↔ isMarkerPacket i = true ∧ r.frame = none) ∧
    (∀ f, r.frame = some f → isMarkerPacket i = true)

/-- `COR` is sticky: only a boundary, ABORT and RESET clear it; and it is set only together with one of the three
corruption events (R17, R136 to R138). -/
def Obligations.CorruptedIsStickyUntilTheBoundary : Prop :=
  ∀ (i : Instr) (s : State), ∃ t r, exec i s = .next t ∧ t.results = s.results ++ [r] ∧
    (s.cor = true → t.cor = false → isMarkerPacket i = true ∨ i = .abort ∨ i = .reset) ∧
    (s.cor = false → t.cor = true → isMarkerPacket i = false ∧ (r.events.has .offsetMismatch = true ∨
      r.events.has .malformedHeader = true ∨ r.events.has .bufferOverrun = true))

/-! ### Invariants of every step -/

/-- Every step keeps the canonical form of the sparse list the model holds the buffer in (DESIGN CHOICE, log entry 18; the
spec knows no such form). -/
def Obligations.StepKeepsTheBufferForm : Prop :=
  ∀ s t : State, Memory.wf s.buf = true → step s = .next t → Memory.wf t.buf = true

/-- A property of the model's own representation of the buffer (DESIGN CHOICE, log entry 18; the spec knows no canonical
form): lists in that form that read the same everywhere are equal. -/
def Obligations.CanonicalBuffersAreDetermined : Prop :=
  ∀ s t : State, Memory.wf s.buf = true → Memory.wf t.buf = true → (∀ a, s.byte a = t.byte a) → s.buf = t.buf

/-- Every step keeps the invariants together: canonical buffer (the model's own form, log entry 18), ACCUMULATING between
operations (R20, R122), the template in the header region outside the patchable bytes (R25), every frame handed over
within its bounds (R121). -/
def Obligations.StepKeepsTheInvariants : Prop :=
  ∀ s t : State, Inv s → step s = .next t → Inv t

/-- The invariants hold right after reset, the model's own buffer form (log entry 18) among them, and so does offset
tracking with nothing arrived. -/
def Obligations.ResetMeetsTheInvariants : Prop :=
  Inv State.reset ∧ ScanTracked State.reset ⟨[], false⟩

/-- Offset tracking (R26): every operation keeps it. -/
def Obligations.OperationsKeepOffsetTracking : Prop :=
  ∀ (i : Instr) (s t : State) (g : History), i.wellFormed = true → ScanTracked s g → exec i s = .next t →
    ScanTracked t (g.next i)

/-- A frame is its header region as patched and then the scan data of all its packets in the order they arrived
(R111, R26). -/
def Obligations.EmittedFrameIsHeaderThenAllScanData : Prop :=
  ∀ (i : Instr) (p : Packet) (s : State) (g : History), i.wellFormed = true → packetOf i = some p → p.m = true →
    ScanTracked s g → ¬ FrameCorrupted s p →
    ∃ t f, exec i s = .next t ∧ lastFrame t = some f ∧ f.bytes.length = 623 + g.scan.length + p.data.length ∧
      f.bytes.drop 623 = g.scan ++ p.data ∧ (∀ a, a < 623 → t.byte a = f.bytes[a]?)

/-! ### Whole runs and comparisons of two instances -/

/-- Every sequence of operations runs to its end and hands over one result each: no operation is fatal (R147, R172). -/
def Obligations.EverySequenceRunsToItsEnd : Prop :=
  ∀ (is : List Instr) (s : State), ∃ t, runInstrs is s = .next t ∧ t.port = s.port ∧
    t.results.length = s.results.length + is.length ∧ t.results.take s.results.length = s.results

/-- Once a frame is corrupted it is lost: however many packets follow, whatever they carry, nothing is emitted up to and
at the next boundary, which reports the discard and leaves the instance clean (R104, R145). -/
def Obligations.CorruptedFrameIsLost : Prop :=
  ∀ (is : List Instr) (last : Instr) (s : State), s.cor = true →
    (∀ i ∈ is, i.operation = .pkt ∧ isMarkerPacket i = false) → isMarkerPacket last = true →
    ∃ t, runInstrs (is ++ [last]) s = .next t ∧ Clean t ∧
      (∀ r ∈ resultsFrom s.results.length t, r.frame = none) ∧
      ∃ r, t.results.getLast? = some r ∧ r.events.has .frameDiscarded = true

/-- After a boundary or an ABORT, a packet at offset 0 that is not malformed and fits starts a clean frame: no event,
nothing corrupted (R145, R126). -/
def Obligations.RecoveryAfterTheBoundary : Prop :=
  ∀ (i j : Instr) (p : Packet) (s : State), isMarkerPacket i = true ∨ i = .abort →
    packetOf j = some p → p.m = false → p.hdr.off.toNat = 0 → (p.hdr.qh = true → p.hdr.qt = true) →
    623 + p.data.length ≤ Config.bufCap →
    ∃ t u, exec i s = .next t ∧ exec j t = .next u ∧ u.cor = false ∧ u.results = t.results ++ [⟨none, 0⟩]

/-- Nothing the buffer holds decides what an operation does: two states that differ in the buffer only have the same
registers and the same events after any operation, and frames of the same length and timestamp (R46). -/
def Obligations.BufferContentsDecideNothing : Prop :=
  ∀ (i : Instr) (s : State) (b : List Host.Cell), ∃ t u r q,
    exec i s = .next t ∧ exec i { s with buf := b } = .next u ∧
      t.results = s.results ++ [r] ∧ u.results = s.results ++ [q] ∧
      t.wc = u.wc ∧ t.efo = u.efo ∧ t.cor = u.cor ∧ t.lts = u.lts ∧ t.ltv = u.ltv ∧ t.fsm = u.fsm ∧
      r.events = q.events ∧ r.frame.map (fun f => (f.bytes.length, f.length, f.key, f.ts)) =
        q.frame.map (fun f => (f.bytes.length, f.length, f.key, f.ts))

/-- The timestamp registers influence the diagnostic only: two states that differ in them only agree on everything else
after any operation, the frame included (R18). -/
def Obligations.TimestampRegistersInfluenceOnlyTheDiagnostic : Prop :=
  ∀ (i : Instr) (s : State) (lts : Timestamp) (ltv : Bool), ∃ t u r q,
    exec i s = .next t ∧ exec i { s with lts := lts, ltv := ltv } = .next u ∧
      t.results = s.results ++ [r] ∧ u.results = s.results ++ [q] ∧
      t.buf = u.buf ∧ t.wc = u.wc ∧ t.efo = u.efo ∧ t.cor = u.cor ∧ t.fsm = u.fsm ∧ r.frame = q.frame ∧
      ∀ e, e ≠ .tsNonincreasing → r.events.has e = q.events.has e

/-- The ignored fields decide nothing (R61): type-specific, the restart-marker header, MBZ, precision, and all of `type`
and `q` beyond their range tests. -/
def Obligations.IgnoredFieldsDecideNothing : Prop :=
  ∀ (i j : Instr) (p q : Packet) (s : State), packetOf i = some p → packetOf j = some q →
    p.hdr.off = q.hdr.off → p.hdr.qh = q.hdr.qh → p.hdr.qt = q.hdr.qt →
    (p.hdr.qt = true → p.hdr.width = q.hdr.width ∧ p.hdr.height = q.hdr.height ∧ p.hdr.tab1 = q.hdr.tab1 ∧
      p.hdr.tab2 = q.hdr.tab2) →
    p.data = q.data → p.m = q.m → p.ts = q.ts → ∃ t, exec i s = .next t ∧ exec j s = .next t

/-- Instances that agree on `EFO`, `COR`, the header region and the frame's data so far emit the same frame, if any, on
every operation, and agree so again afterwards. -/
def Obligations.AgreementIsKeptAndGivesEqualFrames : Prop :=
  ∀ (i : Instr) (s s' : State), SameForFrames s s' →
    ∃ t t' r r', exec i s = .next t ∧ exec i s' = .next t' ∧ t.results = s.results ++ [r] ∧
      t'.results = s'.results ++ [r'] ∧ r.frame = r'.frame ∧ SameForFrames t t'

/-- Idempotence of reuse (property P5): a sequence whose first packet is at offset 0 with its own tables and dimensions
makes a used instance, between frames, emit exactly the frames a freshly reset instance emits. -/
def Obligations.ReuseIsLikeAFreshInstance : Prop :=
  ∀ (i : Instr) (is : List Instr) (p : Packet) (s : State), Clean s → HeaderRegionOk s →
    i.wellFormed = true → packetOf i = some p → p.hdr.qt = true →
    ∃ t u, runInstrs (i :: is) s = .next t ∧ runInstrs (i :: is) State.reset = .next u ∧
      (resultsFrom s.results.length t).map Result.frame = u.results.map Result.frame

/-- Fragmentation is invisible (property P2): a FRAME cut into non-empty pieces expands to well-formed packets, and on
a clean instance it makes the block emit the very frame the single packet with all the scan data does. -/
def Obligations.FragmentedFrameEqualsTheWhole : Prop :=
  ∀ (h : MainHeader) (r : RestartHeader) (tabs : Option (QuantHeader × List Byte × List Byte)) (ts : Timestamp)
    (pieces : List (List Byte)) (s : State),
    Clean s → h.off = 0 → pieces ≠ [] → (∀ d ∈ pieces, d ≠ []) →
    (frameFirst h r tabs pieces.flatten true ts).wellFormed = true →
    (∀ i ∈ frameOps h r tabs ts pieces, i.wellFormed = true) ∧
    ∃ t u f, runInstrs (frameOps h r tabs ts pieces) s = .next t ∧
      exec (frameFirst h r tabs pieces.flatten true ts) s = .next u ∧ lastFrame t = some f ∧ lastFrame u = some f
end

