-- ==== Sys2Proof/Laws/State.lean ====
section
/-! SUPPORT. One lemma per field per update of the state, all true by unfolding the update once. -/

namespace Sys2Proof.Machine

@[simp] theorem State.setBuf_buf (s : State) (v : List Host.Cell) : (s.setBuf v).buf = v := rfl
@[simp] theorem State.setBuf_wc (s : State) (v : List Host.Cell) : (s.setBuf v).wc = s.wc := rfl
@[simp] theorem State.setBuf_efo (s : State) (v : List Host.Cell) : (s.setBuf v).efo = s.efo := rfl
@[simp] theorem State.setBuf_cor (s : State) (v : List Host.Cell) : (s.setBuf v).cor = s.cor := rfl
@[simp] theorem State.setBuf_lts (s : State) (v : List Host.Cell) : (s.setBuf v).lts = s.lts := rfl
@[simp] theorem State.setBuf_ltv (s : State) (v : List Host.Cell) : (s.setBuf v).ltv = s.ltv := rfl
@[simp] theorem State.setBuf_fsm (s : State) (v : List Host.Cell) : (s.setBuf v).fsm = s.fsm := rfl
@[simp] theorem State.setBuf_port (s : State) (v : List Host.Cell) : (s.setBuf v).port = s.port := rfl
@[simp] theorem State.setBuf_results (s : State) (v : List Host.Cell) : (s.setBuf v).results = s.results := rfl

@[simp] theorem State.setWc_buf (s : State) (v : Reg25) : (s.setWc v).buf = s.buf := rfl
@[simp] theorem State.setWc_wc (s : State) (v : Reg25) : (s.setWc v).wc = v := rfl
@[simp] theorem State.setWc_efo (s : State) (v : Reg25) : (s.setWc v).efo = s.efo := rfl
@[simp] theorem State.setWc_cor (s : State) (v : Reg25) : (s.setWc v).cor = s.cor := rfl
@[simp] theorem State.setWc_lts (s : State) (v : Reg25) : (s.setWc v).lts = s.lts := rfl
@[simp] theorem State.setWc_ltv (s : State) (v : Reg25) : (s.setWc v).ltv = s.ltv := rfl
@[simp] theorem State.setWc_fsm (s : State) (v : Reg25) : (s.setWc v).fsm = s.fsm := rfl
@[simp] theorem State.setWc_port (s : State) (v : Reg25) : (s.setWc v).port = s.port := rfl
@[simp] theorem State.setWc_results (s : State) (v : Reg25) : (s.setWc v).results = s.results := rfl

@[simp] theorem State.setEfo_buf (s : State) (v : Reg25) : (s.setEfo v).buf = s.buf := rfl
@[simp] theorem State.setEfo_wc (s : State) (v : Reg25) : (s.setEfo v).wc = s.wc := rfl
@[simp] theorem State.setEfo_efo (s : State) (v : Reg25) : (s.setEfo v).efo = v := rfl
@[simp] theorem State.setEfo_cor (s : State) (v : Reg25) : (s.setEfo v).cor = s.cor := rfl
@[simp] theorem State.setEfo_lts (s : State) (v : Reg25) : (s.setEfo v).lts = s.lts := rfl
@[simp] theorem State.setEfo_ltv (s : State) (v : Reg25) : (s.setEfo v).ltv = s.ltv := rfl
@[simp] theorem State.setEfo_fsm (s : State) (v : Reg25) : (s.setEfo v).fsm = s.fsm := rfl
@[simp] theorem State.setEfo_port (s : State) (v : Reg25) : (s.setEfo v).port = s.port := rfl
@[simp] theorem State.setEfo_results (s : State) (v : Reg25) : (s.setEfo v).results = s.results := rfl

@[simp] theorem State.setCor_buf (s : State) (v : Bool) : (s.setCor v).buf = s.buf := rfl
@[simp] theorem State.setCor_wc (s : State) (v : Bool) : (s.setCor v).wc = s.wc := rfl
@[simp] theorem State.setCor_efo (s : State) (v : Bool) : (s.setCor v).efo = s.efo := rfl
@[simp] theorem State.setCor_cor (s : State) (v : Bool) : (s.setCor v).cor = v := rfl
@[simp] theorem State.setCor_lts (s : State) (v : Bool) : (s.setCor v).lts = s.lts := rfl
@[simp] theorem State.setCor_ltv (s : State) (v : Bool) : (s.setCor v).ltv = s.ltv := rfl
@[simp] theorem State.setCor_fsm (s : State) (v : Bool) : (s.setCor v).fsm = s.fsm := rfl
@[simp] theorem State.setCor_port (s : State) (v : Bool) : (s.setCor v).port = s.port := rfl
@[simp] theorem State.setCor_results (s : State) (v : Bool) : (s.setCor v).results = s.results := rfl

@[simp] theorem State.setLts_buf (s : State) (v : Timestamp) : (s.setLts v).buf = s.buf := rfl
@[simp] theorem State.setLts_wc (s : State) (v : Timestamp) : (s.setLts v).wc = s.wc := rfl
@[simp] theorem State.setLts_efo (s : State) (v : Timestamp) : (s.setLts v).efo = s.efo := rfl
@[simp] theorem State.setLts_cor (s : State) (v : Timestamp) : (s.setLts v).cor = s.cor := rfl
@[simp] theorem State.setLts_lts (s : State) (v : Timestamp) : (s.setLts v).lts = v := rfl
@[simp] theorem State.setLts_ltv (s : State) (v : Timestamp) : (s.setLts v).ltv = s.ltv := rfl
@[simp] theorem State.setLts_fsm (s : State) (v : Timestamp) : (s.setLts v).fsm = s.fsm := rfl
@[simp] theorem State.setLts_port (s : State) (v : Timestamp) : (s.setLts v).port = s.port := rfl
@[simp] theorem State.setLts_results (s : State) (v : Timestamp) : (s.setLts v).results = s.results := rfl

@[simp] theorem State.setLtv_buf (s : State) (v : Bool) : (s.setLtv v).buf = s.buf := rfl
@[simp] theorem State.setLtv_wc (s : State) (v : Bool) : (s.setLtv v).wc = s.wc := rfl
@[simp] theorem State.setLtv_efo (s : State) (v : Bool) : (s.setLtv v).efo = s.efo := rfl
@[simp] theorem State.setLtv_cor (s : State) (v : Bool) : (s.setLtv v).cor = s.cor := rfl
@[simp] theorem State.setLtv_lts (s : State) (v : Bool) : (s.setLtv v).lts = s.lts := rfl
@[simp] theorem State.setLtv_ltv (s : State) (v : Bool) : (s.setLtv v).ltv = v := rfl
@[simp] theorem State.setLtv_fsm (s : State) (v : Bool) : (s.setLtv v).fsm = s.fsm := rfl
@[simp] theorem State.setLtv_port (s : State) (v : Bool) : (s.setLtv v).port = s.port := rfl
@[simp] theorem State.setLtv_results (s : State) (v : Bool) : (s.setLtv v).results = s.results := rfl

@[simp] theorem State.setFsm_buf (s : State) (v : Fsm) : (s.setFsm v).buf = s.buf := rfl
@[simp] theorem State.setFsm_wc (s : State) (v : Fsm) : (s.setFsm v).wc = s.wc := rfl
@[simp] theorem State.setFsm_efo (s : State) (v : Fsm) : (s.setFsm v).efo = s.efo := rfl
@[simp] theorem State.setFsm_cor (s : State) (v : Fsm) : (s.setFsm v).cor = s.cor := rfl
@[simp] theorem State.setFsm_lts (s : State) (v : Fsm) : (s.setFsm v).lts = s.lts := rfl
@[simp] theorem State.setFsm_ltv (s : State) (v : Fsm) : (s.setFsm v).ltv = s.ltv := rfl
@[simp] theorem State.setFsm_fsm (s : State) (v : Fsm) : (s.setFsm v).fsm = v := rfl
@[simp] theorem State.setFsm_port (s : State) (v : Fsm) : (s.setFsm v).port = s.port := rfl
@[simp] theorem State.setFsm_results (s : State) (v : Fsm) : (s.setFsm v).results = s.results := rfl

@[simp] theorem State.setPort_buf (s : State) (v : List Command) : (s.setPort v).buf = s.buf := rfl
@[simp] theorem State.setPort_wc (s : State) (v : List Command) : (s.setPort v).wc = s.wc := rfl
@[simp] theorem State.setPort_efo (s : State) (v : List Command) : (s.setPort v).efo = s.efo := rfl
@[simp] theorem State.setPort_cor (s : State) (v : List Command) : (s.setPort v).cor = s.cor := rfl
@[simp] theorem State.setPort_lts (s : State) (v : List Command) : (s.setPort v).lts = s.lts := rfl
@[simp] theorem State.setPort_ltv (s : State) (v : List Command) : (s.setPort v).ltv = s.ltv := rfl
@[simp] theorem State.setPort_fsm (s : State) (v : List Command) : (s.setPort v).fsm = s.fsm := rfl
@[simp] theorem State.setPort_port (s : State) (v : List Command) : (s.setPort v).port = v := rfl
@[simp] theorem State.setPort_results (s : State) (v : List Command) : (s.setPort v).results = s.results := rfl

@[simp] theorem State.addResult_buf (s : State) (r : Result) : (s.addResult r).buf = s.buf := rfl
@[simp] theorem State.addResult_wc (s : State) (r : Result) : (s.addResult r).wc = s.wc := rfl
@[simp] theorem State.addResult_efo (s : State) (r : Result) : (s.addResult r).efo = s.efo := rfl
@[simp] theorem State.addResult_cor (s : State) (r : Result) : (s.addResult r).cor = s.cor := rfl
@[simp] theorem State.addResult_lts (s : State) (r : Result) : (s.addResult r).lts = s.lts := rfl
@[simp] theorem State.addResult_ltv (s : State) (r : Result) : (s.addResult r).ltv = s.ltv := rfl
@[simp] theorem State.addResult_fsm (s : State) (r : Result) : (s.addResult r).fsm = s.fsm := rfl
@[simp] theorem State.addResult_port (s : State) (r : Result) : (s.addResult r).port = s.port := rfl
@[simp] theorem State.addResult_results (s : State) (r : Result) : (s.addResult r).results = s.results ++ [r] := rfl

@[simp] theorem State.frameReset_buf (s : State) : s.frameReset.buf = s.buf := rfl
@[simp] theorem State.frameReset_wc (s : State) : s.frameReset.wc = s.wc := rfl
@[simp] theorem State.frameReset_efo (s : State) : s.frameReset.efo = 0 := rfl
@[simp] theorem State.frameReset_cor (s : State) : s.frameReset.cor = false := rfl
@[simp] theorem State.frameReset_lts (s : State) : s.frameReset.lts = s.lts := rfl
@[simp] theorem State.frameReset_ltv (s : State) : s.frameReset.ltv = s.ltv := rfl
@[simp] theorem State.frameReset_fsm (s : State) : s.frameReset.fsm = s.fsm := rfl
@[simp] theorem State.frameReset_port (s : State) : s.frameReset.port = s.port := rfl
@[simp] theorem State.frameReset_results (s : State) : s.frameReset.results = s.results := rfl

@[simp] theorem State.recordEmission_buf (s : State) (ts : Timestamp) : (s.recordEmission ts).buf = s.buf := rfl
@[simp] theorem State.recordEmission_wc (s : State) (ts : Timestamp) : (s.recordEmission ts).wc = s.wc := rfl
@[simp] theorem State.recordEmission_efo (s : State) (ts : Timestamp) : (s.recordEmission ts).efo = s.efo := rfl
@[simp] theorem State.recordEmission_cor (s : State) (ts : Timestamp) : (s.recordEmission ts).cor = s.cor := rfl
@[simp] theorem State.recordEmission_lts (s : State) (ts : Timestamp) : (s.recordEmission ts).lts = ts := rfl
@[simp] theorem State.recordEmission_ltv (s : State) (ts : Timestamp) : (s.recordEmission ts).ltv = true := rfl
@[simp] theorem State.recordEmission_fsm (s : State) (ts : Timestamp) : (s.recordEmission ts).fsm = s.fsm := rfl
@[simp] theorem State.recordEmission_port (s : State) (ts : Timestamp) : (s.recordEmission ts).port = s.port := rfl
@[simp] theorem State.recordEmission_results (s : State) (ts : Timestamp) : (s.recordEmission ts).results = s.results := rfl

@[simp] theorem State.resetInstance_buf (s : State) : s.resetInstance.buf = Memory.writeBytes s.buf 0 Config.template.toList := rfl
@[simp] theorem State.resetInstance_wc (s : State) : s.resetInstance.wc = 623 := rfl
@[simp] theorem State.resetInstance_efo (s : State) : s.resetInstance.efo = 0 := rfl
@[simp] theorem State.resetInstance_cor (s : State) : s.resetInstance.cor = false := rfl
@[simp] theorem State.resetInstance_lts (s : State) : s.resetInstance.lts = 0 := rfl
@[simp] theorem State.resetInstance_ltv (s : State) : s.resetInstance.ltv = false := rfl
@[simp] theorem State.resetInstance_fsm (s : State) : s.resetInstance.fsm = .accumulating := rfl
@[simp] theorem State.resetInstance_port (s : State) : s.resetInstance.port = s.port := rfl
@[simp] theorem State.resetInstance_results (s : State) : s.resetInstance.results = s.results := rfl

@[simp] theorem Work.raise_st (w : Work) (e : Event) : (w.raise e).st = w.st := rfl
@[simp] theorem Work.raise_ev (w : Work) (e : Event) : (w.raise e).ev = w.ev.withEvent e := rfl
@[simp] theorem Work.corrupt_st (w : Work) (e : Event) : (w.corrupt e).st = w.st.setCor true := rfl
@[simp] theorem Work.corrupt_ev (w : Work) (e : Event) : (w.corrupt e).ev = w.ev.withEvent e := rfl

end Sys2Proof.Machine
end

