-- ==== Sys2Proof/Laws/Memory.lean ====
section
/-! SUPPORT. What the buffer's operations do: a read after a write, and that every write keeps the canonical form. -/

namespace Sys2Proof.Machine

theorem bufCap_ge : 1000000 ≤ Config.bufCap := Nat.le_add_right _ _

/-- Looking up behind a filter that keeps the key's entries. -/
theorem lookup_filter_of_pos (l : List Host.Cell) (p : Host.Cell → Bool) (a : Nat) (h : ∀ v, p (a, v) = true) :
    (l.filter p).lookup a = l.lookup a := by
  induction l with
  | nil => rfl
  | cons c l ih =>
    obtain ⟨b, v⟩ := c
    by_cases hb : a = b
    · subst hb; simp [h]
    · have hb' : (a == b) = false := beq_false_of_ne hb
      by_cases hp : p (b, v) = true <;> simp [hp, List.lookup_cons, hb', ih]

/-- Looking up behind a filter that drops the key's entries. -/
theorem lookup_filter_of_neg (l : List Host.Cell) (p : Host.Cell → Bool) (a : Nat) (h : ∀ v, p (a, v) = false) :
    (l.filter p).lookup a = none := by
  induction l with
  | nil => rfl
  | cons c l ih =>
    obtain ⟨b, v⟩ := c
    by_cases hp : p (b, v) = true
    · have hb : (a == b) = false := beq_false_of_ne (by rintro rfl; simp [h] at hp)
      simp [hp, List.lookup_cons, hb, ih]
    · simp [hp, ih]

/-- A read after a write: the byte written at its address, every other byte as before. -/
theorem Memory.byteAt_write (buf : List Host.Cell) (a : Nat) (v : Byte) (b : Nat) :
    Memory.byteAt (Memory.write buf a v) b = if b = a then v else Memory.byteAt buf b := by
  unfold Memory.byteAt Memory.write
  rw [List.lookup_append, List.lookup_append]
  rcases Nat.lt_trichotomy b a with h | h | h
  · rw [lookup_filter_of_pos _ _ b (by simp [h])]
    rw [lookup_filter_of_neg _ (fun c => decide (a < c.1)) b (by simp; omega)]
    have hne : b ≠ a := by omega
    have hb : (b == a) = false := beq_false_of_ne hne
    split <;> simp [List.lookup_cons, hb]
  · subst h
    rw [lookup_filter_of_neg _ _ b (by simp), lookup_filter_of_neg _ _ b (by simp)]
    split <;> simp_all
  · rw [lookup_filter_of_neg _ _ b (by simp; omega)]
    rw [lookup_filter_of_pos _ (fun c => decide (a < c.1)) b (by simp [h])]
    have hne : b ≠ a := by omega
    have hb : (b == a) = false := beq_false_of_ne hne
    split <;> simp [List.lookup_cons, hb]

/-- Reading one byte after `MemWrite` (R40): the byte written where the address is in the range and exists. -/
theorem Memory.byteAt_writeBytes (vs : List Byte) (buf : List Host.Cell) (a b : Nat) :
    Memory.byteAt (Memory.writeBytes buf a vs) b =
      if a ≤ b ∧ b < a + vs.length ∧ b < Config.bufCap then vs.getD (b - a) 0 else Memory.byteAt buf b := by
  induction vs generalizing buf a with
  | nil => simp [Memory.writeBytes]; omega
  | cons v vs ih =>
    rw [Memory.writeBytes, ih]
    by_cases h : a + 1 ≤ b ∧ b < a + 1 + vs.length ∧ b < Config.bufCap
    · have h' : a ≤ b ∧ b < a + (v :: vs).length ∧ b < Config.bufCap := by simp; omega
      rw [if_pos h, if_pos h']
      obtain ⟨k, rfl⟩ : ∃ k, b = a + 1 + k := ⟨b - (a + 1), by omega⟩
      have e1 : a + 1 + k - (a + 1) = k := by omega
      have e2 : a + 1 + k - a = k + 1 := by omega
      rw [e1, e2]; simp
    · rw [if_neg h]
      by_cases hb : b = a
      · subst hb
        by_cases hc : b < Config.bufCap
        · simp [hc, Memory.byteAt_write]
        · simp [hc]
      · have h' : ¬ (a ≤ b ∧ b < a + (v :: vs).length ∧ b < Config.bufCap) := by simp; omega
        rw [if_neg h']
        split <;> simp [Memory.byteAt_write, hb]

/-- `MemWrite` leaves the bytes outside its range alone. -/
theorem Memory.byteAt_writeBytes_of_outside (vs : List Byte) (buf : List Host.Cell) (a b : Nat)
    (h : b < a ∨ a + vs.length ≤ b) : Memory.byteAt (Memory.writeBytes buf a vs) b = Memory.byteAt buf b := by
  rw [Memory.byteAt_writeBytes, if_neg]; omega

/-- `MemWrite` stores its bytes at the addresses that exist. -/
theorem Memory.byteAt_writeBytes_of_inside (vs : List Byte) (buf : List Host.Cell) (a k : Nat) (h : k < vs.length)
    (hc : a + k < Config.bufCap) : Memory.byteAt (Memory.writeBytes buf a vs) (a + k) = vs[k] := by
  rw [Memory.byteAt_writeBytes, if_pos ⟨by omega, by omega, hc⟩]
  simp [h]

theorem Memory.wf_iff (buf : List Host.Cell) :
    Memory.wf buf = true ↔ buf.Pairwise (fun c d => c.1 < d.1) ∧
      ∀ c ∈ buf, c.1 < Config.bufCap ∧ c.2 ≠ Config.resetByte c.1 := by
  simp [Memory.wf, List.all_eq_true]

/-- A write at an address that exists keeps the canonical form. -/
theorem Memory.wf_write (buf : List Host.Cell) (a : Nat) (v : Byte) (ha : a < Config.bufCap) (h : Memory.wf buf = true) :
    Memory.wf (Memory.write buf a v) = true := by
  rw [Memory.wf_iff] at h ⊢
  obtain ⟨hs, hm⟩ := h
  unfold Memory.write
  constructor
  · rw [List.pairwise_append, List.pairwise_append]
    refine ⟨hs.filter _, ⟨by split <;> simp, hs.filter _, ?_⟩, ?_⟩
    · intro c hc d hd
      split at hc <;> simp_all
    · intro c hc d hd
      simp only [List.mem_filter, List.mem_append, decide_eq_true_eq] at hc hd
      rcases hd with hd | hd
      · split at hd <;> simp_all
      · omega
  · intro c hc
    simp only [List.mem_append, List.mem_filter] at hc
    rcases hc with hc | hc | hc
    · exact hm c hc.1
    · split at hc
      · simp at hc
      · simp at hc; subst hc; exact ⟨ha, by assumption⟩
    · exact hm c hc.1

/-- `MemWrite` keeps the canonical form. -/
theorem Memory.wf_writeBytes (vs : List Byte) (buf : List Host.Cell) (a : Nat) (h : Memory.wf buf = true) :
    Memory.wf (Memory.writeBytes buf a vs) = true := by
  induction vs generalizing buf a with
  | nil => exact h
  | cons v vs ih =>
    rw [Memory.writeBytes]
    apply ih
    split
    · exact Memory.wf_write buf a v (by assumption) h
    · exact h

/-- What `MemRead` answers, and when (00_scope.md section 4). -/
theorem Memory.read_eq_some_iff (buf : List Host.Cell) (a n : Nat) (bytes : List Byte) :
    Memory.read buf a n = some bytes ↔
      a + n ≤ Config.bufCap ∧ bytes.length = n ∧ ∀ k, k < n → bytes.getD k 0 = Memory.byteAt buf (a + k) := by
  unfold Memory.read
  constructor
  · intro h
    split at h
    · cases h
      refine ⟨by assumption, by simp, fun k hk => ?_⟩
      simp [hk]
    · cases h
  · rintro ⟨hc, hl, hb⟩
    rw [if_pos hc]
    congr 1
    apply List.ext_getElem
    · simp [hl]
    · intro k h1 h2
      have := hb k (by omega)
      simp [h2] at this ⊢
      exact this.symm

/-- Reading one byte of the state. -/
theorem State.byte_of_lt (s : State) (a : Nat) (h : a < Config.bufCap) : s.byte a = some (Memory.byteAt s.buf a) := by
  simp [State.byte, h]

theorem State.byte_of_ge (s : State) (a : Nat) (h : Config.bufCap ≤ a) : s.byte a = none := by
  simp [State.byte]; omega

/-- Two states whose buffers hold the same byte at an address read alike there. -/
theorem State.byte_congr (s t : State) (a : Nat) (h : Memory.byteAt s.buf a = Memory.byteAt t.buf a) :
    s.byte a = t.byte a := by
  simp [State.byte, h]

end Sys2Proof.Machine
end

