-- ==== Sys2Proof/Laws/Ops.lean ====
section
/-! SUPPORT. What the shared operations do, once each: the flags and events of a packet's steps, the registers and the
buffer after them, the boundary's two outcomes, and what a whole packet answers. -/

namespace Sys2Proof.Machine

/-! ### Events -/

@[simp] theorem EventVec.has_withEvent (v : EventVec) (e f : Event) :
    (v.withEvent e).has f = (v.has f || decide (e = f)) := by
  cases e <;> cases f <;> simp [EventVec.has, EventVec.withEvent, Event.bit]

@[simp] theorem EventVec.has_zero (e : Event) : EventVec.has 0#5 e = false := by
  simp [EventVec.has]

/-- Two vectors that report the same events are equal. -/
theorem EventVec.ext_has (v w : EventVec) (h : ∀ e, v.has e = w.has e) : v = w := by
  apply BitVec.eq_of_getLsbD_eq
  intro i hi
  have h0 := h .offsetMismatch
  have h1 := h .malformedHeader
  have h2 := h .bufferOverrun
  have h3 := h .tsNonincreasing
  have h4 := h .frameDiscarded
  simp only [EventVec.has, Event.bit] at h0 h1 h2 h3 h4
  rcases (by omega : i = 0 ∨ i = 1 ∨ i = 2 ∨ i = 3 ∨ i = 4) with rfl | rfl | rfl | rfl | rfl <;> assumption

/-! ### Flagging corruption -/

@[simp] theorem Work.corruptIf_cor (w : Work) (c : Bool) (e : Event) : (w.corruptIf c e).st.cor = (w.st.cor || c) := by
  cases c <;> simp [Work.corruptIf]

@[simp] theorem Work.corruptIf_has (w : Work) (c : Bool) (e f : Event) :
    (w.corruptIf c e).ev.has f = (w.ev.has f || (c && decide (e = f))) := by
  cases c <;> simp [Work.corruptIf]

/-- Flagging corruption writes nothing but `COR`. -/
theorem Work.corruptIf_st (w : Work) (c : Bool) (e : Event) :
    (w.corruptIf c e).st = w.st.setCor (w.st.cor || c) := by
  cases c <;> simp [Work.corruptIf, State.setCor]

/-! ### The steps of a packet -/

/-- The state after steps 2 to 5, from the one before. -/
theorem packetBody_st (h : Hdr) (data : List Byte) (w : Work) :
    (packetBody h data w).st =
      { w.st with
        buf := packetBuffer h data w.st.buf
        wc := BitVec.ofNat 25 (scanAddress h + data.length)
        efo := BitVec.ofNat 25 (h.off.toNat + data.length)
        cor := w.st.cor || offsetMismatches h.off w.st.efo || badTableLength h || overruns h data.length } := by
  simp [packetBody, advance, overrunCheck, storePacket, tableLengthCheck, offsetCheck, Work.corruptIf_st,
    State.setBuf, State.setWc, State.setEfo, State.setCor]

/-- The events of steps 2 to 5. -/
theorem packetBody_has (h : Hdr) (data : List Byte) (w : Work) (e : Event) :
    (packetBody h data w).ev.has e =
      (w.ev.has e || (offsetMismatches h.off w.st.efo && decide (Event.offsetMismatch = e))
        || (badTableLength h && decide (Event.malformedHeader = e))
        || (overruns h data.length && decide (Event.bufferOverrun = e))) := by
  simp [packetBody, advance, overrunCheck, storePacket, tableLengthCheck, offsetCheck]

/-- The registers after steps 2 to 5 as numbers, for a payload that fits its length. -/
theorem ofNat25_toNat (n : Nat) (h : n < 33554432) : (BitVec.ofNat 25 n).toNat = n := by
  rw [BitVec.toNat_ofNat, Nat.mod_eq_of_lt h]

theorem FragOffset.toNat_lt (o : FragOffset) : o.toNat < 16777216 := o.isLt

@[simp] theorem scanAddress_eq (h : Hdr) : scanAddress h = 623 + h.off.toNat := rfl

@[simp] theorem dataOffset_eq : Config.dataOffset = 623 := rfl

/-- The overrun condition, and that it bounds the cursor (R99). -/
theorem overruns_eq_false_iff (h : Hdr) (n : Nat) :
    overruns h n = false ↔ 623 + h.off.toNat + n ≤ Config.bufCap := by
  rw [overruns, decide_eq_false_iff_not, Nat.not_lt, dataOffset_eq]

/-- The offset check as numbers (R92). -/
theorem offsetMismatches_eq_false_iff (off : FragOffset) (efo : Reg25) :
    offsetMismatches off efo = false ↔ off.toNat = efo.toNat := by
  simp only [offsetMismatches, ne_eq, decide_not, Bool.not_eq_false', decide_eq_true_eq]
  rw [← BitVec.toNat_inj, BitVec.toNat_setWidth, Nat.mod_eq_of_lt (Nat.lt_trans off.isLt (by decide))]

theorem offsetMismatches_eq (off : FragOffset) (efo : Reg25) :
    offsetMismatches off efo = decide (off.toNat ≠ efo.toNat) := by
  rw [Bool.eq_iff_iff, decide_eq_true_iff, ← not_iff_not, Bool.not_eq_true, offsetMismatches_eq_false_iff, not_not]

theorem overruns_eq (h : Hdr) (n : Nat) : overruns h n = decide (Config.bufCap < 623 + h.off.toNat + n) := rfl

/-- The header patch leaves an address alone that is in none of its three ranges. -/
theorem byteAt_patchedBuffer_of_outside (h : Hdr) (buf : List Host.Cell) (a : Nat)
    (h1 : h.qt = true → h.tab1.length = 64) (h2 : h.qt = true → h.tab2.length = 64)
    (ha : ¬ (25 ≤ a ∧ a < 89) ∧ ¬ (94 ≤ a ∧ a < 158) ∧ ¬ (163 ≤ a ∧ a < 167)) :
    Memory.byteAt (patchedBuffer h buf) a = Memory.byteAt buf a := by
  unfold patchedBuffer
  split
  next hq =>
    have h1 := h1 hq
    have h2 := h2 hq
    simp only [Config.heightOffset, Config.widthOffset, Config.qt1Offset, Config.qt2Offset]
    rw [Memory.byteAt_writeBytes_of_outside _ _ _ _ (by omega), Memory.byteAt_writeBytes_of_outside _ _ _ _ (by omega),
      Memory.byteAt_writeBytes_of_outside _ _ _ _ (by simp; omega),
      Memory.byteAt_writeBytes_of_outside _ _ _ _ (by simp; omega)]
  next => rfl

/-- What the header region holds after a patch, byte by byte (R94, R95). -/
theorem byteAt_patchedBuffer (h : Hdr) (buf : List Host.Cell) (a : Nat) (hq : h.qt = true)
    (h1 : h.tab1.length = 64) (h2 : h.tab2.length = 64) :
    Memory.byteAt (patchedBuffer h buf) a =
      if 25 ≤ a ∧ a < 89 then h.tab1.getD (a - 25) 0
      else if 94 ≤ a ∧ a < 158 then h.tab2.getD (a - 94) 0
      else if a = 163 then hi8 h.height
      else if a = 164 then lo8 h.height
      else if a = 165 then hi8 h.width
      else if a = 166 then lo8 h.width
      else Memory.byteAt buf a := by
  have hc := bufCap_ge
  simp only [patchedBuffer, hq, if_true, Config.heightOffset, Config.widthOffset, Config.qt1Offset, Config.qt2Offset,
    Memory.byteAt_writeBytes, h1, h2, List.length_cons, List.length_nil]
  by_cases c1 : 25 ≤ a ∧ a < 89
  · rw [if_neg (by omega), if_pos (by omega), if_pos c1]
  by_cases c2 : 94 ≤ a ∧ a < 158
  · rw [if_pos (by omega), if_neg c1, if_pos c2]
  rw [if_neg (by omega), if_neg (by omega), if_neg c1, if_neg c2]
  by_cases c3 : a = 163
  · subst c3; rw [if_neg (by omega), if_pos (by omega), if_pos rfl]; simp
  by_cases c4 : a = 164
  · subst c4; rw [if_neg (by omega), if_pos (by omega), if_neg (by omega), if_pos rfl]; simp
  by_cases c5 : a = 165
  · subst c5; rw [if_pos (by omega), if_neg (by omega), if_neg (by omega), if_pos rfl]; simp
  by_cases c6 : a = 166
  · subst c6; rw [if_pos (by omega), if_neg (by omega), if_neg (by omega), if_neg (by omega), if_pos rfl]; simp
  rw [if_neg (by omega), if_neg (by omega), if_neg c3, if_neg c4, if_neg c5, if_neg c6]

/-- The buffer after steps 3 and 4: the scan data where the copy goes, the patched buffer elsewhere (R98). -/
theorem byteAt_packetBuffer (h : Hdr) (data : List Byte) (buf : List Host.Cell) (a : Nat) :
    Memory.byteAt (packetBuffer h data buf) a =
      if 623 + h.off.toNat ≤ a ∧ a < 623 + h.off.toNat + data.length ∧ a < Config.bufCap
      then data.getD (a - (623 + h.off.toNat)) 0 else Memory.byteAt (patchedBuffer h buf) a := by
  simp only [packetBuffer, scanAddress_eq, Memory.byteAt_writeBytes]

theorem wf_patchedBuffer (h : Hdr) (buf : List Host.Cell) (hw : Memory.wf buf = true) :
    Memory.wf (patchedBuffer h buf) = true := by
  unfold patchedBuffer
  split
  · exact Memory.wf_writeBytes _ _ _ (Memory.wf_writeBytes _ _ _ (Memory.wf_writeBytes _ _ _
      (Memory.wf_writeBytes _ _ _ hw)))
  · exact hw

/-- The steps of a packet keep the canonical form. -/
theorem wf_packetBuffer (h : Hdr) (data : List Byte) (buf : List Host.Cell) (hw : Memory.wf buf = true) :
    Memory.wf (packetBuffer h data buf) = true :=
  Memory.wf_writeBytes _ _ _ (wf_patchedBuffer h buf hw)

/-! ### The boundary -/

/-- A boundary reached with `COR = 1` discards (R113, R114). -/
theorem boundary_of_corrupted (ts : Timestamp) (w : Work) (h : w.st.cor = true) :
    boundary ts w = .next ((w.st.frameReset.setFsm .accumulating).addResult ⟨none, w.ev.withEvent .frameDiscarded⟩) := by
  simp only [boundary, State.setFsm_cor, h, if_true, deliver]
  rfl

/-- The timestamp diagnostic changes no state. -/
theorem tsCheck_eq (ts : Timestamp) (w : Work) :
    tsCheck ts w = ⟨w.st, if tsNonincreasing w.st.ltv w.st.lts ts then w.ev.withEvent .tsNonincreasing else w.ev⟩ := by
  unfold tsCheck
  split <;> rfl

/-- A boundary reached with `COR = 0` and a cursor within the buffer emits (R111, R112, R114, R116, R117). -/
theorem boundary_of_clean (ts : Timestamp) (w : Work) (h : w.st.cor = false) (hc : w.st.wc.toNat ≤ Config.bufCap) :
    ∃ bytes, Memory.read w.st.buf 0 w.st.wc.toNat = some bytes ∧
      boundary ts w = .next ((((w.st.recordEmission ts).frameReset).setFsm .accumulating).addResult
        ⟨some ⟨bytes, w.st.wc, true, ts⟩,
          if tsNonincreasing w.st.ltv w.st.lts ts then w.ev.withEvent .tsNonincreasing else w.ev⟩) := by
  have hr : ∃ bytes, Memory.read w.st.buf 0 w.st.wc.toNat = some bytes := by
    simp [Memory.read, hc]
  obtain ⟨bytes, hb⟩ := hr
  refine ⟨bytes, hb, ?_⟩
  simp only [boundary, State.setFsm_cor, State.setFsm_buf, State.setFsm_wc, h, hb, tsCheck_eq, deliver]
  rfl

/-! ### Whole packets -/

/-- A packet without the marker: steps 2 to 5 and no frame (R103). -/
theorem runPacket_unmarked (p : Packet) (s : State) (hm : p.m = false) :
    runPacket p s = .next ((packetBody p.hdr p.data ⟨s, 0⟩).st.addResult ⟨none, (packetBody p.hdr p.data ⟨s, 0⟩).ev⟩) := by
  simp [runPacket, finishPacket, hm, deliver]

/-- A marked packet that leaves the frame corrupted: steps 2 to 5, then the discard. -/
theorem runPacket_discard (p : Packet) (s : State) (hm : p.m = true)
    (hc : (packetBody p.hdr p.data ⟨s, 0⟩).st.cor = true) :
    runPacket p s = .next (((packetBody p.hdr p.data ⟨s, 0⟩).st.frameReset.setFsm .accumulating).addResult
      ⟨none, (packetBody p.hdr p.data ⟨s, 0⟩).ev.withEvent .frameDiscarded⟩) := by
  simp only [runPacket, finishPacket, hm, if_true]
  exact boundary_of_corrupted _ _ hc

/-- A packet that leaves `COR = 0` did not overrun, so its cursor lies within the buffer. -/
theorem packetBody_wc_le (p : Packet) (s : State) (hc : (packetBody p.hdr p.data ⟨s, 0⟩).st.cor = false) :
    (packetBody p.hdr p.data ⟨s, 0⟩).st.wc.toNat ≤ Config.bufCap := by
  rw [packetBody_st] at hc ⊢
  simp only [Bool.or_eq_false_iff, overruns_eq_false_iff] at hc
  simp only [scanAddress_eq, BitVec.toNat_ofNat]
  exact Nat.le_trans (Nat.mod_le _ _) hc.2

/-- A marked packet that leaves the frame clean: steps 2 to 5, then the emission. -/
theorem runPacket_emit (p : Packet) (s : State) (hm : p.m = true)
    (hc : (packetBody p.hdr p.data ⟨s, 0⟩).st.cor = false) :
    ∃ bytes, Memory.read (packetBody p.hdr p.data ⟨s, 0⟩).st.buf 0 (packetBody p.hdr p.data ⟨s, 0⟩).st.wc.toNat = some bytes ∧
      runPacket p s = .next (((((packetBody p.hdr p.data ⟨s, 0⟩).st.recordEmission p.ts).frameReset).setFsm
        .accumulating).addResult
        ⟨some ⟨bytes, (packetBody p.hdr p.data ⟨s, 0⟩).st.wc, true, p.ts⟩,
          if tsNonincreasing s.ltv s.lts p.ts then (packetBody p.hdr p.data ⟨s, 0⟩).ev.withEvent .tsNonincreasing
          else (packetBody p.hdr p.data ⟨s, 0⟩).ev⟩) := by
  obtain ⟨bytes, hb, he⟩ := boundary_of_clean p.ts (packetBody p.hdr p.data ⟨s, 0⟩) hc (packetBody_wc_le p s hc)
  refine ⟨bytes, hb, ?_⟩
  simp only [runPacket, finishPacket, hm, if_true, he]
  rw [packetBody_st]

/-- A malformed packet without the marker. -/
theorem runMalformed_unmarked (ts : Timestamp) (s : State) :
    runMalformed false ts s = .next ((s.setCor true).addResult ⟨none, EventVec.withEvent 0 .malformedHeader⟩) := rfl

/-- A malformed packet with the marker: the frame is discarded. -/
theorem runMalformed_marked (ts : Timestamp) (s : State) :
    runMalformed true ts s = .next ((s.frameReset.setFsm .accumulating).addResult
      ⟨none, (EventVec.withEvent 0 .malformedHeader).withEvent .frameDiscarded⟩) := rfl

end Sys2Proof.Machine
end

