-- ==== Sys2Proof/Laws/Exec.lean ====
section
/-! SUPPORT. What exec and step answer, in terms of the shared operations. -/

namespace Sys2Proof.Machine

/-- The six regular forms run as parsed packets (R90). -/
theorem exec_of_packetOf (i : Instr) (p : Packet) (s : State) (h : packetOf i = some p) : exec i s = runPacket p s := by
  cases i <;> simp only [packetOf, Option.some.injEq, reduceCtorEq] at h <;> subst h <;> rfl

/-- An instruction is a parsed packet, a truncated one, or a control. -/
theorem packetOf_cases (i : Instr) :
    (∃ p, packetOf i = some p) ∨ (∃ pay m ts, i = .pktTrunc pay m ts) ∨ i = .abort ∨ i = .reset := by
  cases i <;> simp [packetOf]

/-- The marker flag of a regular form is its packet's. -/
theorem isMarkerPacket_of_packetOf (i : Instr) (p : Packet) (h : packetOf i = some p) : isMarkerPacket i = p.m := by
  cases i <;> simp only [packetOf, Option.some.injEq, reduceCtorEq] at h <;> subst h <;> rfl

/-- What a well-formed regular form gives the engine: tables of 64 bytes when it carries tables, which happens at
offset 0 only, and a payload that fits its length. -/
theorem packetOf_wellFormed (i : Instr) (p : Packet) (hw : i.wellFormed = true) (h : packetOf i = some p) :
    p.hdr.hlen + p.data.length ≤ 65535 ∧ 8 ≤ p.hdr.hlen ∧ (p.hdr.qt = true → p.hdr.qh = true) ∧
      (p.hdr.qt = true → p.hdr.tab1.length = 64 ∧ p.hdr.tab2.length = 64) ∧
      (p.hdr.qh = true → p.hdr.off.toNat = 0) := by
  cases i <;> simp only [packetOf, Option.some.injEq, reduceCtorEq] at h <;> subst h <;>
    simp_all [Instr.wellFormed, MainHeader.selects, tablesHdr, badLengthHdr, plainHdr, headerLength, tablesWellFormed,
      fitsPayload, hasQuantHeader]

/-- Which events a corruption vector reports. -/
theorem corruptionEvents_has (a b c : Bool) (e : Event) :
    (corruptionEvents a b c).has e = ((a && decide (Event.offsetMismatch = e)) ||
      (b && decide (Event.malformedHeader = e)) || (c && decide (Event.bufferOverrun = e))) := by
  cases a <;> cases b <;> cases c <;> cases e <;> rfl

/-- The event vector after steps 2 to 5 of a packet. -/
theorem packetBody_ev (h : Hdr) (data : List Byte) (s : State) :
    (packetBody h data ⟨s, 0⟩).ev = corruptionEvents (decide (h.off.toNat ≠ s.efo.toNat)) (badTableLength h)
      (decide (Config.bufCap < 623 + h.off.toNat + data.length)) := by
  apply EventVec.ext_has
  intro e
  rw [packetBody_has, corruptionEvents_has, offsetMismatches_eq, overruns_eq]
  simp

/-- The corruption flag once steps 2 to 5 of a packet are done. -/
def corruptedAfter (s : State) (p : Packet) : Bool :=
  s.cor || decide (p.hdr.off.toNat ≠ s.efo.toNat) || badTableLength p.hdr ||
    decide (Config.bufCap < 623 + p.hdr.off.toNat + p.data.length)

theorem corruptedAfter_iff (s : State) (p : Packet) : corruptedAfter s p = true ↔ FrameCorrupted s p := by
  simp [corruptedAfter, FrameCorrupted, badTableLength, or_assoc]

/-- The corruption events of a packet. -/
def packetEvents (s : State) (p : Packet) : EventVec :=
  corruptionEvents (decide (p.hdr.off.toNat ≠ s.efo.toNat)) (badTableLength p.hdr)
    (decide (Config.bufCap < 623 + p.hdr.off.toNat + p.data.length))

/-- The two ways a packet can end: without a frame (unmarked, or the frame is corrupted), or with one. -/
def PacketEnd (p : Packet) (s t : State) (r : Result) : Prop :=
  ((p.m = false ∨ corruptedAfter s p = true) ∧ r.frame = none ∧ t.lts = s.lts ∧ t.ltv = s.ltv ∧
      r.events = if p.m then (packetEvents s p).withEvent .frameDiscarded else packetEvents s p) ∨
    (p.m = true ∧ corruptedAfter s p = false ∧ t.lts = p.ts ∧ t.ltv = true ∧
      (r.events = if tsNonincreasing s.ltv s.lts p.ts then (packetEvents s p).withEvent .tsNonincreasing
        else packetEvents s p) ∧
      ∃ bytes, Memory.read t.buf 0 t.wc.toNat = some bytes ∧ r.frame = some ⟨bytes, t.wc, true, p.ts⟩)

/-- Everything a parsed packet can do (R90): it always answers a next state, with one more result. -/
theorem runPacket_spec (p : Packet) (s : State) :
    ∃ t r, runPacket p s = .next t ∧ t.results = s.results ++ [r] ∧ t.port = s.port ∧
      t.buf = packetBuffer p.hdr p.data s.buf ∧
      t.wc = BitVec.ofNat 25 (623 + p.hdr.off.toNat + p.data.length) ∧
      t.efo = (if p.m then 0 else BitVec.ofNat 25 (p.hdr.off.toNat + p.data.length)) ∧
      t.cor = (if p.m then false else corruptedAfter s p) ∧
      t.fsm = (if p.m then .accumulating else s.fsm) ∧ PacketEnd p s t r := by
  have hcor : (packetBody p.hdr p.data ⟨s, 0⟩).st.cor = corruptedAfter s p := by
    rw [packetBody_st]; simp only [offsetMismatches_eq, overruns_eq]; rfl
  have hev : (packetBody p.hdr p.data ⟨s, 0⟩).ev = packetEvents s p := packetBody_ev _ _ _
  cases hm : p.m
  · refine ⟨_, _, runPacket_unmarked p s hm, by rw [packetBody_st]; rfl, by rw [packetBody_st]; rfl,
      by rw [packetBody_st]; rfl, by rw [packetBody_st]; rfl, by rw [packetBody_st]; rfl, ?_, by rw [packetBody_st]; rfl, ?_⟩
    · simpa using hcor
    · refine Or.inl ⟨Or.inl hm, rfl, by rw [packetBody_st]; rfl, by rw [packetBody_st]; rfl, ?_⟩
      simp only [hm, hev, Bool.false_eq_true, if_false]
  · cases hc : corruptedAfter s p
    · obtain ⟨bytes, hb, he⟩ := runPacket_emit p s hm (hcor.trans hc)
      refine ⟨_, _, he, by rw [packetBody_st]; rfl, by rw [packetBody_st]; rfl,
        by rw [packetBody_st]; rfl, by rw [packetBody_st]; rfl, by simp, by simp, by simp, ?_⟩
      refine Or.inr ⟨hm, hc, rfl, rfl, ?_, bytes, ?_, rfl⟩
      · simp only [hev]
      · exact hb
    · refine ⟨_, _, runPacket_discard p s hm (hcor.trans hc), by rw [packetBody_st]; rfl, by rw [packetBody_st]; rfl,
        by rw [packetBody_st]; rfl, by rw [packetBody_st]; rfl, by simp, by simp, by simp, ?_⟩
      refine Or.inl ⟨Or.inr hc, rfl, by rw [packetBody_st]; rfl, by rw [packetBody_st]; rfl, ?_⟩
      simp only [hm, hev, if_true]

/-- The registers of a packet as numbers, where nothing wraps (R106). -/
theorem packet_toNat (p : Packet) (h : p.data.length ≤ 65535) :
    (BitVec.ofNat 25 (623 + p.hdr.off.toNat + p.data.length)).toNat = 623 + p.hdr.off.toNat + p.data.length ∧
      (BitVec.ofNat 25 (p.hdr.off.toNat + p.data.length)).toNat = p.hdr.off.toNat + p.data.length := by
  have := FragOffset.toNat_lt p.hdr.off
  exact ⟨ofNat25_toNat _ (by omega), ofNat25_toNat _ (by omega)⟩

end Sys2Proof.Machine
end

