-- ==== Sys2Proof/Laws/PerInstr.lean ====
section
/-! SUPPORT. Statements about every instruction as syntax, one lemma per constructor. -/

namespace Sys2Proof.Laws

/-- A payload cut short in its header has fewer than 144 bytes (30_encoding.md R58, R59). -/
theorem length_of_isTruncated (pay : List Byte) (h : isTruncated pay = true) : pay.length < 144 := by
  simp only [isTruncated, Bool.or_eq_true, Bool.and_eq_true, decide_eq_true_eq] at h
  split at h <;> omega

/-- The length operand of a PKT command is true when the payload fits it. -/
theorem pktCommand_len (pay : List Byte) (m : Bool) (ts : Timestamp) (h : pay.length ≤ 65535) :
    (pktCommand pay m ts).len.toNat = pay.length := by
  rw [pktCommand, BitVec.toNat_ofNat, Nat.mod_eq_of_lt (by omega)]

@[simp] theorem MainHeader.length_bytes (h : MainHeader) : h.bytes.length = 8 := rfl

@[simp] theorem RestartHeader.length_bytes (r : RestartHeader) : r.bytes.length = 4 := rfl

@[simp] theorem QuantHeader.length_bytes (k : QuantHeader) : k.bytes.length = 4 := rfl

namespace EncodedCommand

/-- The command of a well-formed instruction carries its payload with a true length and selects its operation
(30_encoding.md R60, R63). -/
def Statement (i : Instr) : Prop :=
  i.wellFormed = true → (encode i).pay = i.payload ∧ (encode i).len.toNat = i.payload.length ∧
    (encode i).operation = i.operation

theorem pktTrunc (pay : List Byte) (m : Bool) (ts : Timestamp) : Statement (.pktTrunc pay m ts) := fun hw =>
  ⟨rfl, pktCommand_len _ _ _ (by have := length_of_isTruncated pay hw; simp; omega), rfl⟩

theorem pktRQ (h : MainHeader) (r : RestartHeader) (k : QuantHeader) (tab1 tab2 data : List Byte) (m : Bool)
    (ts : Timestamp) : Statement (.pktRQ h r k tab1 tab2 data m ts) := fun hw => by
  simp only [Instr.wellFormed, tablesWellFormed, fitsPayload, Bool.and_eq_true, beq_iff_eq, decide_eq_true_eq] at hw
  exact ⟨rfl, pktCommand_len _ _ _ (by simp [Instr.payload]; omega), rfl⟩

theorem pktRQX (h : MainHeader) (r : RestartHeader) (k : QuantHeader) (data : List Byte) (m : Bool) (ts : Timestamp) :
    Statement (.pktRQX h r k data m ts) := fun hw => by
  simp only [Instr.wellFormed, fitsPayload, Bool.and_eq_true, decide_eq_true_eq] at hw
  exact ⟨rfl, pktCommand_len _ _ _ (by simp [Instr.payload]; omega), rfl⟩

theorem pktQ (h : MainHeader) (k : QuantHeader) (tab1 tab2 data : List Byte) (m : Bool) (ts : Timestamp) :
    Statement (.pktQ h k tab1 tab2 data m ts) := fun hw => by
  simp only [Instr.wellFormed, tablesWellFormed, fitsPayload, Bool.and_eq_true, beq_iff_eq, decide_eq_true_eq] at hw
  exact ⟨rfl, pktCommand_len _ _ _ (by simp [Instr.payload]; omega), rfl⟩

theorem pktQX (h : MainHeader) (k : QuantHeader) (data : List Byte) (m : Bool) (ts : Timestamp) :
    Statement (.pktQX h k data m ts) := fun hw => by
  simp only [Instr.wellFormed, fitsPayload, Bool.and_eq_true, decide_eq_true_eq] at hw
  exact ⟨rfl, pktCommand_len _ _ _ (by simp [Instr.payload]; omega), rfl⟩

theorem pktR (h : MainHeader) (r : RestartHeader) (data : List Byte) (m : Bool) (ts : Timestamp) :
    Statement (.pktR h r data m ts) := fun hw => by
  simp only [Instr.wellFormed, fitsPayload, Bool.and_eq_true, decide_eq_true_eq] at hw
  exact ⟨rfl, pktCommand_len _ _ _ (by simp [Instr.payload]; omega), rfl⟩

theorem pktB (h : MainHeader) (data : List Byte) (m : Bool) (ts : Timestamp) : Statement (.pktB h data m ts) :=
  fun hw => by
  simp only [Instr.wellFormed, fitsPayload, Bool.and_eq_true, decide_eq_true_eq] at hw
  exact ⟨rfl, pktCommand_len _ _ _ (by simp [Instr.payload]; omega), rfl⟩

theorem abort : Statement .abort := fun _ => ⟨rfl, rfl, rfl⟩

theorem reset : Statement .reset := fun _ => ⟨rfl, rfl, rfl⟩

end EncodedCommand

end Sys2Proof.Laws
end

