-- ==== Sys2Proof/Tests/Slice0.lean ====
section
/-! SUPPORT. Tests: ill-formed terms refused, words of the spec decoded, one small step per instruction, and for every
statement with hypotheses a witness that meets them. Expected values come from 95_test_vectors.md and the examples of
40_header_parser.md and 41_reassembly.md. -/

namespace Sys2Proof.Tests

open Sys2Proof.Machine

/-! ### Sample instructions and states -/

/-- The payload `v` of one byte, `n` times. -/
def rep (v : Byte) (n : Nat) : List Byte := List.replicate n v

theorem length_rep (v : Byte) (n : Nat) : (rep v n).length = n := List.length_replicate

/-- PKT.B, type 1, Q 50. -/
def sB (off : FragOffset) (data : List Byte) (m : Bool) : Instr := .pktB ⟨0, off, 1, 50, 40, 30⟩ data m 7

/-- PKT.R, type 64, Q 50. -/
def sR (off : FragOffset) (data : List Byte) (m : Bool) : Instr := .pktR ⟨0, off, 64, 50, 40, 30⟩ ⟨1, 2, 3, 4⟩ data m 7

/-- PKT.Q, Q 128, tables of 1 and of 2, width 320, height 240. -/
def sQ (data : List Byte) (m : Bool) : Instr :=
  .pktQ ⟨0, 0, 1, 128, 40, 30⟩ ⟨0, 0, 128⟩ (rep 1 64) (rep 2 64) data m 7

/-- PKT.RQ, type 127, Q 255. -/
def sRQ (data : List Byte) (m : Bool) : Instr :=
  .pktRQ ⟨0, 0, 127, 255, 40, 30⟩ ⟨1, 2, 3, 4⟩ ⟨0, 0, 128⟩ (rep 1 64) (rep 2 64) data m 7

/-- PKT.QX with a declared length of 127. -/
def sQX (data : List Byte) (m : Bool) : Instr := .pktQX ⟨0, 0, 1, 255, 40, 30⟩ ⟨0, 0, 127⟩ data m 7

/-- PKT.RQX with a declared length of 129. -/
def sRQX (data : List Byte) (m : Bool) : Instr := .pktRQX ⟨0, 0, 64, 128, 40, 30⟩ ⟨1, 2, 3, 4⟩ ⟨0, 0, 129⟩ data m 7

/-- PKT.TRUNC, two bytes. -/
def sT (m : Bool) : Instr := .pktTrunc [0, 0] m 7

/-- The reset state with the given expected offset and corruption flag. -/
def at' (efo : Reg25) (cor : Bool) : State := { State.reset with efo := efo, cor := cor }

/-- A small packet that matches overruns nothing. -/
theorem not_overrun (n : Nat) (h : n ≤ 1000000) : ¬ Config.bufCap < n := by
  have := bufCap_ge
  omega

/-! ### WellFormed refuses one ill-formed term for each of its checks -/

theorem test_wf_accepts : (sB 0 [5] false).wellFormed = true ∧ (sR 0 [5] false).wellFormed = true ∧
    (sQ [5] false).wellFormed = true ∧ (sRQ [5] false).wellFormed = true ∧ (sQX [5] false).wellFormed = true ∧
    (sRQX [5] false).wellFormed = true ∧ (sT false).wellFormed = true ∧ Instr.abort.wellFormed = true ∧
    Instr.reset.wellFormed = true := by decide

/-- A payload that is not cut short is no PKT.TRUNC. -/
theorem test_wf_refuses_trunc : (Instr.pktTrunc [0, 0, 0, 0, 1, 0, 0, 0] false 0).wellFormed = false := by decide

/-- The type must select the restart-marker header the form has: 63 and 128 do not, 64 and 127 do. -/
theorem test_wf_refuses_type : (Instr.pktR ⟨0, 0, 63, 0, 0, 0⟩ ⟨0, 0, 0, 0⟩ [] false 0).wellFormed = false ∧
    (Instr.pktR ⟨0, 0, 128, 0, 0, 0⟩ ⟨0, 0, 0, 0⟩ [] false 0).wellFormed = false ∧
    (Instr.pktB ⟨0, 0, 64, 0, 0, 0⟩ [] false 0).wellFormed = false ∧
    (Instr.pktQX ⟨0, 0, 127, 128, 0, 0⟩ ⟨0, 0, 0⟩ [] false 0).wellFormed = false ∧
    (Instr.pktRQX ⟨0, 0, 63, 128, 0, 0⟩ ⟨0, 0, 0, 0⟩ ⟨0, 0, 0⟩ [] false 0).wellFormed = false ∧
    (Instr.pktQ ⟨0, 0, 64, 128, 0, 0⟩ ⟨0, 0, 128⟩ (rep 0 64) (rep 0 64) [] false 0).wellFormed = false ∧
    (Instr.pktRQ ⟨0, 0, 1, 128, 0, 0⟩ ⟨0, 0, 0, 0⟩ ⟨0, 0, 128⟩ (rep 0 64) (rep 0 64) [] false 0).wellFormed = false := by
  decide

/-- Q and the offset must select the quantization-table header the form has. -/
theorem test_wf_refuses_quant : (Instr.pktB ⟨0, 0, 1, 128, 0, 0⟩ [] false 0).wellFormed = false ∧
    (Instr.pktR ⟨0, 0, 64, 255, 0, 0⟩ ⟨0, 0, 0, 0⟩ [] false 0).wellFormed = false ∧
    (Instr.pktQX ⟨0, 0, 1, 127, 0, 0⟩ ⟨0, 0, 0⟩ [] false 0).wellFormed = false ∧
    (Instr.pktQX ⟨0, 1, 1, 128, 0, 0⟩ ⟨0, 0, 0⟩ [] false 0).wellFormed = false ∧
    (Instr.pktRQX ⟨0, 1, 64, 128, 0, 0⟩ ⟨0, 0, 0, 0⟩ ⟨0, 0, 0⟩ [] false 0).wellFormed = false ∧
    (Instr.pktQ ⟨0, 0, 1, 127, 0, 0⟩ ⟨0, 0, 128⟩ (rep 0 64) (rep 0 64) [] false 0).wellFormed = false ∧
    (Instr.pktRQ ⟨0, 1, 64, 128, 0, 0⟩ ⟨0, 0, 0, 0⟩ ⟨0, 0, 128⟩ (rep 0 64) (rep 0 64) [] false 0).wellFormed = false := by
  decide

/-- The declared length must be 128 for the forms with tables and another for those without. -/
theorem test_wf_refuses_length : (Instr.pktQX ⟨0, 0, 1, 128, 0, 0⟩ ⟨0, 0, 128⟩ [] false 0).wellFormed = false ∧
    (Instr.pktRQX ⟨0, 0, 64, 128, 0, 0⟩ ⟨0, 0, 0, 0⟩ ⟨0, 0, 128⟩ [] false 0).wellFormed = false ∧
    (Instr.pktQ ⟨0, 0, 1, 128, 0, 0⟩ ⟨0, 0, 127⟩ (rep 0 64) (rep 0 64) [] false 0).wellFormed = false ∧
    (Instr.pktRQ ⟨0, 0, 64, 128, 0, 0⟩ ⟨0, 0, 0, 0⟩ ⟨0, 0, 129⟩ (rep 0 64) (rep 0 64) [] false 0).wellFormed = false := by
  decide

/-- Each table has 64 bytes. -/
theorem test_wf_refuses_tables :
    (Instr.pktQ ⟨0, 0, 1, 128, 0, 0⟩ ⟨0, 0, 128⟩ (rep 0 63) (rep 0 64) [] false 0).wellFormed = false ∧
    (Instr.pktQ ⟨0, 0, 1, 128, 0, 0⟩ ⟨0, 0, 128⟩ (rep 0 64) (rep 0 65) [] false 0).wellFormed = false ∧
    (Instr.pktRQ ⟨0, 0, 64, 128, 0, 0⟩ ⟨0, 0, 0, 0⟩ ⟨0, 0, 128⟩ (rep 0 65) (rep 0 64) [] false 0).wellFormed = false ∧
    (Instr.pktRQ ⟨0, 0, 64, 128, 0, 0⟩ ⟨0, 0, 0, 0⟩ ⟨0, 0, 128⟩ (rep 0 64) (rep 0 63) [] false 0).wellFormed = false := by
  decide

/-- The payload must fit 16 bits of length: one byte more than the form can carry is refused, and the most it can carry
is accepted. -/
theorem test_wf_refuses_payload : (sB 0 (rep 5 65528) false).wellFormed = false ∧
    (sR 0 (rep 5 65524) false).wellFormed = false ∧ (sQX (rep 5 65524) false).wellFormed = false ∧
    (sRQX (rep 5 65520) false).wellFormed = false ∧ (sQ (rep 5 65396) false).wellFormed = false ∧
    (sRQ (rep 5 65392) false).wellFormed = false := by
  simp only [sB, sR, sQX, sRQX, sQ, sRQ, Instr.wellFormed, fitsPayload, length_rep]
  decide

theorem test_wf_accepts_largest : (sB 0 (rep 5 65527) false).wellFormed = true ∧
    (sRQ (rep 5 65391) false).wellFormed = true := by
  simp only [sB, sRQ, Instr.wellFormed, fitsPayload, tablesWellFormed, length_rep]
  decide

/-! ### Words of the spec decode to what it says -/

/-- 40_header_parser.md R73's example, `L = 150`, each byte as the rule writes it. -/
theorem test_decode_Q : decodePayload ([0x00, 0x00, 0x00, 0x00, 0x01, 0xC8, 0x28, 0x1E, 0x00, 0x00, 0x00, 0x80] ++
    (rep 0x10 64 ++ (rep 0x10 64 ++ rep 0xAA 10))) true 0 =
    .pktQ ⟨0, 0, 1, 200, 40, 30⟩ ⟨0, 0, 128⟩ (rep 0x10 64) (rep 0x10 64) (rep 0xAA 10) true 0 := by decide +kernel

/-- R74's example, `L = 145`: the restart-marker header first, the quantization-table header second. -/
theorem test_decode_RQ : decodePayload ([0x00, 0x00, 0x00, 0x00, 0x40, 0x80, 0x02, 0x01, 0x00, 0x00, 0x00, 0x00, 0x00,
    0x00, 0x00, 0x80] ++ (rep 0x01 64 ++ (rep 0x02 64 ++ [0xEE]))) false 9 =
    .pktRQ ⟨0, 0, 64, 128, 2, 1⟩ ⟨0, 0, 0, 0⟩ ⟨0, 0, 128⟩ (rep 0x01 64) (rep 0x02 64) [0xEE] false 9 := by decide +kernel

/-- Vector V12: a declared length of 0x8000 is not 128. -/
theorem test_decode_QX : decodePayload [0x00, 0x00, 0x00, 0x00, 0x00, 0xFF, 0x01, 0x01, 0x00, 0x00, 0x80, 0x00, 0x05]
    false 0 = .pktQX ⟨0, 0, 0, 255, 1, 1⟩ ⟨0, 0, 0x8000⟩ [5] false 0 := by decide

/-- Vector V16. -/
theorem test_decode_RQX : decodePayload [0x00, 0x00, 0x00, 0x00, 0x64, 0xC8, 0x04, 0x03, 0xDE, 0xAD, 0xBE, 0xEF, 0x00,
    0x01, 0x00, 0x40, 0x01, 0x02, 0x03] false 0 =
    .pktRQX ⟨0, 0, 100, 200, 4, 3⟩ ⟨0xDE, 0xAD, 0xBE, 0xEF⟩ ⟨0, 1, 64⟩ [1, 2, 3] false 0 := by decide

/-- Vectors V2 and V3: types 64 and 127 announce a restart-marker header. -/
theorem test_decode_R :
    decodePayload [0x00, 0x00, 0x00, 0x00, 0x40, 0x7F, 0x01, 0x01, 0x01, 0x02, 0x03, 0x04, 0xEE] false 0 =
      .pktR ⟨0, 0, 64, 127, 1, 1⟩ ⟨1, 2, 3, 4⟩ [0xEE] false 0 ∧
    decodePayload [0x00, 0x00, 0x00, 0x00, 0x7F, 0x00, 0xFF, 0xFF, 0x00, 0x00, 0x00, 0x00] true 1 =
      .pktR ⟨0, 0, 127, 0, 255, 255⟩ ⟨0, 0, 0, 0⟩ [] true 1 := by decide

/-- Vectors V1, V4 and V8: types 63 and 128 announce none, and an offset with only its top byte set is not 0. -/
theorem test_decode_B :
    decodePayload [0x00, 0x00, 0x00, 0x00, 0x3F, 0x7F, 0x01, 0x01, 0xEE] false 0 =
      .pktB ⟨0, 0, 63, 127, 1, 1⟩ [0xEE] false 0 ∧
    decodePayload [0x00, 0x00, 0x00, 0x00, 0x80, 0x00, 0x00, 0x00, 0x09, 0x09, 0x09, 0x09] false 0 =
      .pktB ⟨0, 0, 128, 0, 0, 0⟩ [9, 9, 9, 9] false 0 ∧
    decodePayload [0x00, 0x01, 0x00, 0x00, 0x00, 0xFF, 0x01, 0x01, 0x00, 0x00, 0x00, 0x80] false 0 =
      .pktB ⟨0, 65536, 0, 255, 1, 1⟩ [0, 0, 0, 0x80] false 0 := by decide

/-- Vectors T1 to T14, the payloads that are cut short. -/
theorem test_decode_TRUNC :
    [[], [0, 0, 0, 0, 1, 0, 0], [0, 0, 0, 0, 0x40, 0, 0, 0, 0, 0, 0], [0, 0, 0, 0, 1, 0xC8, 0, 0, 0, 0, 0],
      [0, 0, 0, 0, 1, 0xC8, 0, 0, 0, 0, 0, 0x80], [0, 0, 0, 0, 1, 0xC8, 0, 0, 0, 0, 0, 0x80] ++ rep 0 127,
      [0, 0, 0, 0, 0x40, 0xC8, 0, 0, 0, 0, 0, 0, 0, 0, 0],
      [0, 0, 0, 0, 0x40, 0xC8, 0, 0, 0, 0, 0, 0, 0, 0, 0, 0x80] ++ rep 0 127,
      [0, 0, 0, 5, 0x40, 0xC8, 0, 0, 0, 0, 0]].map (fun pay => (decodePayload pay false 0, isTruncated pay)) =
    [[], [0, 0, 0, 0, 1, 0, 0], [0, 0, 0, 0, 0x40, 0, 0, 0, 0, 0, 0], [0, 0, 0, 0, 1, 0xC8, 0, 0, 0, 0, 0],
      [0, 0, 0, 0, 1, 0xC8, 0, 0, 0, 0, 0, 0x80], [0, 0, 0, 0, 1, 0xC8, 0, 0, 0, 0, 0, 0x80] ++ rep 0 127,
      [0, 0, 0, 0, 0x40, 0xC8, 0, 0, 0, 0, 0, 0, 0, 0, 0],
      [0, 0, 0, 0, 0x40, 0xC8, 0, 0, 0, 0, 0, 0, 0, 0, 0, 0x80] ++ rep 0 127,
      [0, 0, 0, 5, 0x40, 0xC8, 0, 0, 0, 0, 0]].map (fun pay => (Instr.pktTrunc pay false 0, true)) := by decide +kernel

/-- Vectors T3, T5, T9, T12 and T13, one byte longer each: not cut short. -/
theorem test_decode_not_TRUNC :
    [[0, 0, 0, 0, 1, 0, 0, 0], [0, 0, 0, 0, 0x40, 0, 0, 0, 0, 0, 0, 0],
      [0, 0, 0, 0, 1, 0xC8, 0, 0, 0, 0, 0, 0x80] ++ rep 0 128,
      [0, 0, 0, 0, 0x40, 0xC8, 0, 0, 0, 0, 0, 0, 0, 0, 0, 0x80] ++ rep 0 128,
      [0, 0, 0, 0, 0x40, 0xC8, 0, 0, 0, 0, 0, 0, 0, 0, 0, 5]].map
      (fun pay => ((decodePayload pay false 0).form, (parse pay).map Hdr.hlen, isTruncated pay)) =
    [(some Form.base, some 8, false), (some Form.restart, some 12, false), (some Form.quant, some 140, false),
      (some Form.restartQuant, some 144, false), (some Form.restartQuantBad, some 16, false)] := by decide +kernel

/-- 30_encoding.md R63: the selector's 1 is ABORT, the reset line is RESET whatever the selector is. -/
theorem test_decode_controls : decode ⟨false, true, [], 0, false, 0⟩ = .ok .abort ∧
    decode ⟨true, false, [], 0, false, 0⟩ = .ok .reset ∧ decode ⟨true, true, [], 0, false, 0⟩ = .ok .reset := by decide

/-- The words of spec/opcode_table.json: each row's match value selects its form. -/
theorem test_table_words :
    [(64, 0), (64, 0x40000000), (96, 0x800000 + 0x80 * 2 ^ 64), (96, 0x800000), (96, 0x40800000 + 0x80 * 2 ^ 64),
      (96, 0x40800000)].map (fun w => (decodeTableWord w.1 w.2).bind Instr.form) =
    [some .base, some .restart, some .quant, some .quantBad, some .restartQuant, some .restartQuantBad] ∧
    decodeTableWord 8 1 = some .abort ∧ decodeTableWord 8 2 = some .reset ∧
    decodeTableWord 8 0 = some (.pktTrunc [] false 0) := by decide +kernel

/-- The very next step after placing a word runs its instruction. -/
theorem test_withFetchWord : step (State.reset.withFetchWord 8 1) = exec .abort State.reset ∧
    step (State.reset.withFetchWord 8 2) = exec .reset State.reset ∧
    step (State.reset.withFetchWord 64 0x40000000) =
      exec (.pktR ⟨0, 0, 64, 0, 0, 0⟩ ⟨0, 0, 0, 0⟩ [] false 0) State.reset := ⟨rfl, rfl, rfl⟩

/-! ### One step of each instruction -/

/-- 41_reassembly.md R100, R101: `off = 100`, `n = 50` gives `WC = 773`, `EFO = 150`. -/
theorem test_pktB_registers : ∃ t, exec (sB 100 (rep 5 50) false) (at' 100 false) = .next t ∧ t.wc = 773 ∧
    t.efo = 150 := ⟨_, rfl, by decide, by decide⟩

/-- R92, R101: `EFO = 100`, a packet at 150 with 20 bytes gives `COR = 1`, `EFO = 170` and OFFSET_MISMATCH alone. -/
theorem test_pktB_mismatch : ∃ t, exec (sB 150 (rep 5 20) false) (at' 100 false) = .next t ∧ t.cor = true ∧
    t.efo = 170 ∧ t.results = [⟨none, 0b00001⟩] := by
  obtain ⟨t, r, he, hr, -, -, -, hefo, hc, -, hend⟩ := runPacket_spec ⟨plainHdr ⟨0, 150, 1, 50, 40, 30⟩ false,
    rep 5 20, false, 7⟩ (at' 100 false)
  refine ⟨t, he, by rw [hc]; rfl, by rw [hefo]; decide, ?_⟩
  rcases hend with ⟨-, h1, -, -, h2⟩ | ⟨h, -⟩
  · obtain ⟨f, ev⟩ := r
    simp only at h1 h2
    rw [hr, h1, h2]
    have := not_overrun 793 (by decide)
    simp [packetEvents, plainHdr, at', badTableLength, rep, this, corruptionEvents, State.reset]
  · cases h

/-- R72's example: scan data starts at payload byte 12, and the restart bytes reach no address. -/
theorem test_pktR_data : ∃ t, exec (.pktR ⟨0, 0, 65, 50, 40, 30⟩ ⟨0x00, 0x10, 0xFF, 0xFF⟩ [0x55] false 0) State.reset =
    .next t ∧ t.byte 623 = some 0x55 ∧ t.byte 624 = some (Config.dataByte 624) ∧ t.wc = 624 := by
  obtain ⟨t, r, he, -, -, hb, hwc, -⟩ := runPacket_spec ⟨plainHdr ⟨0, 0, 65, 50, 40, 30⟩ true, [0x55], false, 0⟩
    State.reset
  have := bufCap_ge
  refine ⟨t, he, ?_, ?_, by rw [hwc]; rfl⟩
  · rw [State.byte_of_lt _ _ (by omega), hb, byteAt_packetBuffer, if_pos ⟨by decide, by decide, by omega⟩]
    rfl
  · rw [State.byte_of_lt _ _ (by omega), hb, byteAt_packetBuffer, if_neg (by intro h; exact absurd h.2.1 (by decide))]
    rfl

/-- The header region after a packet with tables of 1 and of 2, width 320 and height 240, on the reset state. -/
theorem byte_after_tables (h : MainHeader) (rst : Bool) (k : QuantHeader) (t : State) (a : Nat) (ha : a < 623)
    (hb : t.buf = packetBuffer (tablesHdr h rst k (rep 1 64) (rep 2 64)) [] State.reset.buf) :
    t.byte a = some (if 25 ≤ a ∧ a < 89 then (rep 1 64).getD (a - 25) 0
      else if 94 ≤ a ∧ a < 158 then (rep 2 64).getD (a - 94) 0
      else if a = 163 then hi8 (dimension h.h8)
      else if a = 164 then lo8 (dimension h.h8)
      else if a = 165 then hi8 (dimension h.w8)
      else if a = 166 then lo8 (dimension h.w8)
      else Memory.byteAt [] a) := by
  have := bufCap_ge
  rw [State.byte_of_lt _ _ (by omega), hb, byteAt_packetBuffer, if_neg (by omega),
    byteAt_patchedBuffer _ _ _ rfl (length_rep _ _) (length_rep _ _)]
  rfl

/-- R94's example: `w8 = 40, h8 = 30` writes `00 F0 01 40` at 163. -/
theorem test_pktQ_dimensions : ∃ t, exec (sQ [] false) State.reset = .next t ∧
    [163, 164, 165, 166].map t.byte = [some 0x00, some 0xF0, some 0x01, some 0x40] := by
  obtain ⟨t, r, he, -, -, hb, -⟩ := runPacket_spec ⟨tablesHdr ⟨0, 0, 1, 128, 40, 30⟩ false ⟨0, 0, 128⟩ (rep 1 64)
    (rep 2 64), [], false, 7⟩ State.reset
  refine ⟨t, he, ?_⟩
  simp only [List.map_cons, List.map_nil, byte_after_tables _ _ _ t 163 (by decide) hb,
    byte_after_tables _ _ _ t 164 (by decide) hb, byte_after_tables _ _ _ t 165 (by decide) hb,
    byte_after_tables _ _ _ t 166 (by decide) hb]
  decide

/-- R95 with R74: the first table goes to 25 to 88, the second to 94 to 157, the five bytes between keep the template. -/
theorem test_pktRQ_tables : ∃ t, exec (sRQ [] false) State.reset = .next t ∧
    [25, 88, 94, 157].map t.byte = [some 1, some 1, some 2, some 2] ∧ t.byte 89 = some Config.template[89] ∧
    t.wc = 623 := by
  obtain ⟨t, r, he, -, -, hb, hwc, -⟩ := runPacket_spec ⟨tablesHdr ⟨0, 0, 127, 255, 40, 30⟩ true ⟨0, 0, 128⟩ (rep 1 64)
    (rep 2 64), [], false, 7⟩ State.reset
  refine ⟨t, he, ?_, ?_, by rw [hwc]; rfl⟩
  · simp only [List.map_cons, List.map_nil, byte_after_tables _ _ _ t 25 (by decide) hb,
      byte_after_tables _ _ _ t 88 (by decide) hb, byte_after_tables _ _ _ t 94 (by decide) hb,
      byte_after_tables _ _ _ t 157 (by decide) hb]
    decide
  · exact byte_after_tables _ _ _ t 89 (by decide) hb

/-- R93's example: `COR = 1`, MALFORMED_HEADER alone, header region unchanged. -/
theorem test_pktQX_flags : ∃ t, exec (.pktQX ⟨0, 0, 1, 255, 40, 30⟩ ⟨0, 0, 64⟩ [0x77] false 0) State.reset = .next t ∧
    t.cor = true ∧ t.results = [⟨none, 0b00010⟩] ∧ t.byte 25 = some Config.template[25] := by
  obtain ⟨t, r, he, hr, -, hb, -, -, hc, -, hend⟩ := runPacket_spec ⟨badLengthHdr ⟨0, 0, 1, 255, 40, 30⟩ false
    ⟨0, 0, 64⟩, [0x77], false, 0⟩ State.reset
  have := bufCap_ge
  refine ⟨t, he, by rw [hc]; rfl, ?_, ?_⟩
  · rcases hend with ⟨-, h1, -, -, h2⟩ | ⟨h, -⟩
    · obtain ⟨f, ev⟩ := r
      simp only at h1 h2
      rw [hr, h1, h2]
      have := not_overrun 624 (by decide)
      simp [packetEvents, badLengthHdr, badTableLength, this, corruptionEvents, State.reset]
    · cases h
  · rw [State.byte_of_lt _ _ (by omega), hb, byteAt_packetBuffer, if_neg (by omega)]
    rfl

/-- R76's example: 16 header bytes, empty scan data, `WC = 623`, `EFO = 0`, the frame flagged. -/
theorem test_pktRQX_registers : ∃ t, exec (.pktRQX ⟨0, 0, 127, 128, 1, 1⟩ ⟨0xAA, 0xAA, 0xAA, 0xAA⟩ ⟨0, 0, 0⟩ [] false 0)
    State.reset = .next t ∧ t.wc = 623 ∧ t.efo = 0 ∧ t.cor = true := by
  obtain ⟨t, r, he, -, -, -, hwc, hefo, hc, -⟩ := runPacket_spec ⟨badLengthHdr ⟨0, 0, 127, 128, 1, 1⟩ true ⟨0, 0, 0⟩,
    [], false, 0⟩ State.reset
  exact ⟨t, he, by rw [hwc]; rfl, by rw [hefo]; rfl, by rw [hc]; rfl⟩

/-- R91's example: `EFO = 100`, payload `00 00` gives `COR = 1`, `EFO = 100`, the cursor unchanged. -/
theorem test_pktTrunc_flags : ∃ t, exec (sT false) (at' 100 false) = .next t ∧ t.cor = true ∧ t.efo = 100 ∧
    t.wc = 623 ∧ t.results = [⟨none, 0b00010⟩] := ⟨_, rfl, rfl, rfl, rfl, by decide⟩

/-- Program G4: a truncated packet with the marker is a boundary that discards. -/
theorem test_pktTrunc_boundary : ∃ t, exec (sT true) (at' 2 false) = .next t ∧ t.cor = false ∧ t.efo = 0 ∧
    t.results = [⟨none, 0b10010⟩] := ⟨_, rfl, rfl, rfl, by decide⟩

/-- Scenario S1's lengths with PKT.B: ten bytes at offset 0 with the marker give a frame of 633 bytes with the packet's
timestamp, and no event. -/
theorem test_pktB_emits : ∃ t f, exec (sB 0 (rep 0xAA 10) true) State.reset = .next t ∧ t.results = [⟨some f, 0⟩] ∧
    f.bytes.length = 633 ∧ f.length = 633 ∧ f.ts = 7 ∧ t.lts = 7 ∧ t.ltv = true ∧ t.efo = 0 := by
  obtain ⟨t, r, he, hr, -, -, hwc, hefo, -, -, hend⟩ := runPacket_spec ⟨plainHdr ⟨0, 0, 1, 50, 40, 30⟩ false,
    rep 0xAA 10, true, 7⟩ State.reset
  have hn := not_overrun 633 (by decide)
  have hnc : corruptedAfter State.reset ⟨plainHdr ⟨0, 0, 1, 50, 40, 30⟩ false, rep 0xAA 10, true, 7⟩ = false := by
    simp [corruptedAfter, State.reset, plainHdr, badTableLength, rep]
    omega
  rcases hend with ⟨h | h, -⟩ | ⟨-, -, h1, h2, h3, bytes, h4, h5⟩
  · cases h
  · rw [hnc] at h; cases h
  · obtain ⟨fr, ev⟩ := r
    simp only at h3 h5
    refine ⟨t, ⟨bytes, t.wc, true, 7⟩, he, ?_, ?_, hwc, rfl, h1, h2, hefo⟩
    · rw [hr, h5, h3]
      simp [tsNonincreasing, State.reset, packetEvents, plainHdr, badTableLength, rep, corruptionEvents, hn]
    · show bytes.length = 633
      rw [((Memory.read_eq_some_iff _ _ _ _).1 h4).2.1, hwc]
      rfl

/-- R126's example. -/
theorem test_abort : ∃ t, exec .abort { at' 100 true with wc := 725, lts := 5000, ltv := true } = .next t ∧
    t.efo = 0 ∧ t.cor = false ∧ t.wc = 725 ∧ t.lts = 5000 ∧ t.ltv = true := ⟨_, rfl, rfl, rfl, rfl, rfl, rfl⟩

/-- Vector K1. -/
theorem test_reset : ∃ t, exec .reset { at' 100 true with wc := 773, lts := 5000, ltv := true } = .next t ∧
    t.wc = 623 ∧ t.efo = 0 ∧ t.cor = false ∧ t.lts = 0 ∧ t.ltv = false ∧ t.results = [⟨none, 0⟩] :=
  ⟨_, rfl, rfl, rfl, rfl, rfl, rfl, rfl⟩

/-- The status outputs show the registers (R24). -/
theorem test_statusOutputs : statusOutputs (at' 4 true) = ⟨true, 4, 623, 0, false⟩ := by decide

/-- The buffer right after reset is in canonical form. -/
theorem test_reset_memory : Memory.wf State.reset.buf = true := by decide

/-! ### Witnesses: for each statement with hypotheses, a case that meets them all together -/

/-- Every constructor, for DecodeOfEncodeIsTheInstruction. -/
theorem test_witness_DecodeOfEncodeIsTheInstruction :
    ∀ i ∈ [sB 0xFFFFFF [5] true, sR 2 [] false, sQ [5] true, sRQ [] false, sQX [5] true, sRQX [] true, sT true, .abort,
      .reset], i.wellFormed = true := by decide

theorem test_witness_EncodeOfDecodeIsTheCommand : ∃ c : Command, c.operation = .pkt ∧ decode c = .ok (sT true) :=
  ⟨⟨false, false, [0, 0], 2, true, 7⟩, rfl, rfl⟩

theorem test_witness_DecodedInstructionIsWellFormed :
    decode (encode (sB 2 [5] true)) = .ok (sB 2 [5] true) ∧ decode (encode (sRQX [5] true)) = .ok (sRQX [5] true) ∧
      decode ⟨true, true, [1], 7, true, 3⟩ = .ok .reset := by decide

/-- The empty payload and one of the largest length. -/
theorem test_witness_EveryPayloadIsExactlyOneForm : ([] : List Byte).length ≤ 65535 ∧ (rep 5 65535).length ≤ 65535 := by
  simp only [length_rep]
  decide

/-- Each of the three ways a command selects its operation. -/
theorem test_witness_CommandLinesSelectTheOperation :
    (∃ c : Command, c.rst = true ∧ c.op = true) ∧ (∃ c : Command, c.rst = false ∧ c.op = true) ∧
      ∃ c : Command, c.rst = false ∧ c.op = false ∧ c.pay.length = c.len.toNat :=
  ⟨⟨⟨true, true, [], 0, false, 0⟩, rfl, rfl⟩, ⟨⟨false, true, [], 0, false, 0⟩, rfl, rfl⟩,
    ⟨⟨false, false, [1], 1, false, 0⟩, rfl, rfl, rfl⟩⟩

/-- A payload at each side of each of the four length tests. -/
theorem test_witness_TruncatedExactlyByTheFourLengthTests :
    [rep 0 7, rep 0 8, rep 0x40 11, rep 0x40 12, [0, 0, 0, 0, 1, 0x80, 0, 0, 0, 0, 0],
      [0, 0, 0, 0, 1, 0x80, 0, 0, 0, 0, 0, 0], [0, 0, 0, 0, 1, 0x80, 0, 0, 0, 0, 0, 0x80] ++ rep 0 127,
      [0, 0, 0, 0, 1, 0x80, 0, 0, 0, 0, 0, 0x80] ++ rep 0 128].map (fun p => (decodePayload p false 0).form) =
    [some .truncated, some .base, some .truncated, some .restart, some .truncated, some .quantBad, some .truncated,
      some .quant] := by decide +kernel

/-- Each of the five header lengths. -/
theorem test_witness_HeaderLengthFormula :
    [(sB 0 [] false), sR 0 [] false, sQX [] false, sRQX [] false, sQ [] false, sRQ [] false].map
      (fun i => (parse i.payload).map Hdr.hlen) =
    [some 8, some 12, some 12, some 16, some 140, some 144] := by decide +kernel

/-- Two payloads that differ after their first 144 bytes only. -/
theorem test_witness_ParserReadsOnlyTheHeaderBytes :
    (rep 5 144 ++ [1]).length = (rep 5 144 ++ [2]).length ∧ (rep 5 144 ++ [1]).take 144 = (rep 5 144 ++ [2]).take 144 ∧
      rep 5 144 ++ [1] ≠ rep 5 144 ++ [2] := by decide +kernel

/-- A payload of each row of the form table. -/
theorem test_witness_TableMasksSelectTheDecodedForm :
    ∀ i ∈ [sB 0 [] false, sR 0 [] false, sQX [] false, sRQX [] false, sQ [] false, sRQ [] false],
      isTruncated i.payload = false := by decide +kernel

theorem test_witness_StepRunsTheDecodedInstruction : ∃ (s : State) (c : Command), s.port = [c] ∧
    decode c = .ok (sB 0 [5] true) := ⟨⟨[], 623, 0, false, 0, false, .accumulating, [encode (sB 0 [5] true)], []⟩, _, rfl,
  by decide⟩

theorem test_witness_StepWaitsWhileNothingIsIssued : State.reset.port = [] := rfl

theorem test_witness_StepRefusesAnUntrueLength : ∃ (s : State) (c : Command), s.port = [c] ∧ c.operation = .pkt ∧
    c.pay.length ≠ c.len.toNat :=
  ⟨⟨[], 623, 0, false, 0, false, .accumulating, [⟨false, false, [1], 2, false, 0⟩], []⟩, _, rfl, rfl, by decide⟩

theorem test_witness_RunOfIssuedCommandsIsTheSequence :
    ∀ i ∈ [Instr.reset, sB 0 [5] false, .abort, sQX [5] true], i.wellFormed = true := by decide

/-- For PlainPacketNextState, TablePacketNextState and BadTableLengthPacketNextState, whose one hypothesis names the next
state: it names one whatever the packet is. -/
theorem test_witness_NextState : ∃ t : State, t = { at' 5 true with wc := 0 } := ⟨_, rfl⟩

/-- A packet of each regular form, marked and not, with the largest and the least offset, for the statements over
`packetOf`. -/
theorem test_witness_packetOf :
    ∀ i ∈ [sB 0xFFFFFF [5] true, sB 0 [] false, sR 0xFFFFFF [] true, sR 0 [5] false, sQ [5] true, sQ [] false,
      sRQ [] true, sRQ [5] false, sQX [5] true, sQX [] false, sRQX [] true, sRQX [5] false],
    i.wellFormed = true ∧ (packetOf i).isSome = true := by decide

/-- The cursor at its largest: the largest offset and the largest payload. -/
theorem test_witness_CursorAndExpectedOffsetFollowThePacket : ∃ p, (sB 0xFFFFFF (rep 5 65527) false).wellFormed = true ∧
    packetOf (sB 0xFFFFFF (rep 5 65527) false) = some p ∧ 623 + p.hdr.off.toNat + p.data.length = 16843365 := by
  refine ⟨_, ?_, rfl, ?_⟩
  · simp only [sB, Instr.wellFormed, fitsPayload, length_rep]; decide
  · simp only [length_rep, plainHdr]; rfl

/-- An offset above and one below the expected one, with and without the marker, and an expected offset of `2 ^ 24`. -/
theorem test_witness_OffsetMismatchSetsCorrupted :
    (∃ p, packetOf (sB 101 [] false) = some p ∧ p.hdr.off.toNat ≠ (at' 100 true).efo.toNat ∧ p.m = false ∧
      (at' 100 true).cor = true) ∧
    (∃ p, packetOf (sR 99 [] true) = some p ∧ p.hdr.off.toNat ≠ (at' 100 false).efo.toNat ∧ p.m = true) ∧
    2 ^ 24 ≤ (at' 0x1000000 false).efo.toNat :=
  ⟨⟨_, rfl, by decide, rfl, rfl⟩, ⟨_, rfl, by decide, rfl⟩, by decide⟩

/-- The clause on an equal offset: a copy that ends exactly at the buffer's end, on a frame corrupted and on one not. -/
theorem test_witness_OffsetMismatchSetsCorrupted_equal : ∃ p,
    packetOf (sB 0 (rep 5 (Config.bufCap - 623)) false) = some p ∧ p.hdr.off.toNat = (at' 0 false).efo.toNat ∧
      p.hdr.off.toNat = (at' 0 true).efo.toNat ∧ (p.hdr.qh = true → p.hdr.qt = true) ∧
      623 + p.hdr.off.toNat + p.data.length ≤ Config.bufCap ∧ p.m = false := by
  have := bufCap_ge
  refine ⟨_, rfl, rfl, rfl, (fun h => by cases h), ?_, rfl⟩
  simp only [length_rep]; simp [plainHdr]; omega

theorem test_witness_BadTableLengthFlagsAndContinues :
    ∀ i ∈ [sQX [5] false, sRQX [5] true], ∃ p, i.wellFormed = true ∧ packetOf i = some p ∧ p.hdr.qh = true ∧
      p.hdr.qt = false := by
  intro i hi
  simp only [List.mem_cons, List.not_mem_nil, or_false] at hi
  rcases hi with rfl | rfl <;> exact ⟨_, by decide, rfl, rfl, rfl⟩

/-- A packet with tables and one without; and which addresses at the edges of the three ranges a patch may write. -/
theorem test_witness_TablePacketPatchesTheHeader :
    (∃ p, (sRQ [5] false).wellFormed = true ∧ packetOf (sRQ [5] false) = some p ∧ p.hdr.qt = true) ∧
    ∃ p, (sQX [5] true).wellFormed = true ∧ packetOf (sQX [5] true) = some p ∧ p.hdr.qt = false :=
  ⟨⟨_, by decide, rfl, rfl⟩, ⟨_, by decide, rfl, rfl⟩⟩

theorem test_patchable_edges : patchable 24 = false ∧ patchable 89 = false ∧ patchable 93 = false ∧ patchable 158 = false ∧
    patchable 162 = false ∧ patchable 167 = false ∧ patchable 25 = true ∧ patchable 88 = true ∧ patchable 94 = true ∧
    patchable 157 = true ∧ patchable 163 = true ∧ patchable 166 = true := by decide

/-- Packets that fail each of the three conditions of a patch alone, a truncated one and ABORT. -/
theorem test_witness_NoOtherConditionWritesTheHeader :
    ∀ i ∈ [sB 0 [5] false, .pktB ⟨0, 1, 1, 128, 0, 0⟩ [5] false 0, sQX [5] false, sT false, .abort],
      i.wellFormed = true ∧ i ≠ .reset ∧ ∀ p, packetOf i = some p →
        ¬ (p.hdr.off.toNat = 0 ∧ 128 ≤ p.hdr.q.toNat ∧ p.hdr.qlen.toNat = 128) := by
  intro i hi
  simp only [List.mem_cons, List.not_mem_nil, or_false] at hi
  rcases hi with rfl | rfl | rfl | rfl | rfl <;>
    refine ⟨by decide, by decide, fun p hp => ?_⟩ <;> cases hp <;> decide

theorem test_witness_OnlyTheFirstFragmentWritesTheHeader : ∃ p, (sB 1 [5] false).wellFormed = true ∧
    packetOf (sB 1 [5] false) = some p ∧ p.hdr.off.toNat ≠ 0 := ⟨_, by decide, rfl, by decide⟩

/-- A scan copy whose last byte is the buffer's last, and the first address past it. -/
theorem test_witness_ScanCopyStoresTheData : ∃ p, packetOf (sB 0 (rep 5 (Config.bufCap - 623)) false) = some p ∧
    Config.bufCap - 624 < p.data.length ∧ 623 + p.hdr.off.toNat + (Config.bufCap - 624) < Config.bufCap ∧
    Config.bufCap ≤ 623 + p.hdr.off.toNat + (Config.bufCap - 623) := by
  have := bufCap_ge
  refine ⟨_, rfl, ?_, ?_, ?_⟩
  · simp only [length_rep]; omega
  · simp [plainHdr]; omega
  · simp [plainHdr]; omega

/-- One byte more than the buffer holds overruns, exactly as many do not. -/
theorem test_witness_OverrunIsFlaggedAndClipped :
    (∃ p, packetOf (sB 0 (rep 5 (Config.bufCap - 622)) false) = some p ∧
      Config.bufCap < 623 + p.hdr.off.toNat + p.data.length) ∧
    ∃ p, packetOf (sB 0 (rep 5 (Config.bufCap - 623)) true) = some p ∧
      ¬ Config.bufCap < 623 + p.hdr.off.toNat + p.data.length := by
  have := bufCap_ge
  refine ⟨⟨_, rfl, ?_⟩, ⟨_, rfl, ?_⟩⟩
  · simp only [length_rep]; simp [plainHdr]; omega
  · simp only [length_rep]; simp [plainHdr]; omega

theorem test_witness_EmptyScanData : ∃ p, (sB 0 [] true).wellFormed = true ∧ packetOf (sB 0 [] true) = some p ∧
    p.data = [] ∧ p.m = true ∧ ¬ FrameCorrupted State.reset p := by
  refine ⟨_, by decide, rfl, rfl, rfl, ?_⟩
  have := not_overrun 623 (by decide)
  simp [FrameCorrupted, State.reset, plainHdr]
  omega

theorem test_witness_ScanOnlyPacketFrame :
    ∀ i ∈ [sB 0 [5] false, sR 7 [5] true, sQX [5] false, sRQX [5] true], ∃ p, packetOf i = some p ∧ p.hdr.qt = false := by
  intro i hi
  simp only [List.mem_cons, List.not_mem_nil, or_false] at hi
  rcases hi with rfl | rfl | rfl | rfl <;> exact ⟨_, rfl, rfl⟩

theorem test_witness_TablePacketFrame :
    ∀ i ∈ [sQ [5] false, sRQ [5] true], ∃ p, i.wellFormed = true ∧ packetOf i = some p ∧ p.hdr.qt = true := by
  intro i hi
  simp only [List.mem_cons, List.not_mem_nil, or_false] at hi
  rcases hi with rfl | rfl <;> exact ⟨_, by decide, rfl, rfl⟩

/-- Marked packets of every form, for BoundaryKeepsBufferAndCursor and BoundaryAlwaysResetsThePerFrameState. -/
theorem test_witness_BoundaryKeepsBufferAndCursor :
    ∀ i ∈ [sB 0 [5] true, sR 0 [5] true, sQ [5] true, sRQ [5] true, sQX [5] true, sRQX [5] true, sT true],
      isMarkerPacket i = true := by decide

/-- For CleanBoundaryEmitsTheBuffer: a marked packet at the expected offset. -/
theorem test_witness_CleanBoundaryEmitsTheBuffer : ∃ p, (sB 100 [5] true).wellFormed = true ∧
    packetOf (sB 100 [5] true) = some p ∧ p.m = true ∧ ¬ FrameCorrupted (at' 100 false) p := by
  refine ⟨_, by decide, rfl, rfl, ?_⟩
  have := not_overrun 724 (by decide)
  simp [FrameCorrupted, at', plainHdr]
  omega

/-- For CorruptedBoundaryDiscards: a frame corrupted before, by this packet, or by a packet cut short. -/
theorem test_witness_CorruptedBoundaryDiscards :
    (isMarkerPacket (sB 0 [5] true) = true ∧ ∀ p, packetOf (sB 0 [5] true) = some p → FrameCorrupted (at' 0 true) p) ∧
    (isMarkerPacket (sQX [] true) = true ∧ ∀ p, packetOf (sQX [] true) = some p → FrameCorrupted State.reset p) ∧
    (isMarkerPacket (sT true) = true ∧ ∀ p, packetOf (sT true) = some p → FrameCorrupted State.reset p) := by
  refine ⟨⟨rfl, fun p _ => Or.inl rfl⟩, ⟨rfl, fun p hp => ?_⟩, ⟨rfl, fun p hp => by cases hp⟩⟩
  cases hp
  exact Or.inr (Or.inr (Or.inl ⟨rfl, rfl⟩))

/-- For TimestampDiagnosticExactly: vector E6's second and third frames, equal and above. -/
theorem test_witness_TimestampDiagnosticExactly : tsNonincreasing true 7 7 = true ∧ tsNonincreasing true 7 8 = false ∧
    tsNonincreasing false 7 7 = false ∧ tsNonincreasing true 0xFFFFFFFF 5 = true := by decide

theorem test_witness_TimestampRegistersFollowEmissions : sB 0 [5] true ≠ .reset ∧ sT true ≠ .reset := by decide

theorem test_witness_SinglePacketFrame : ∃ p, (sRQ [5] true).wellFormed = true ∧ packetOf (sRQ [5] true) = some p ∧
    p.m = true ∧ Clean State.reset ∧ p.hdr.off.toNat = 0 ∧ (p.hdr.qh = true → p.hdr.qt = true) :=
  ⟨_, by decide, rfl, rfl, ⟨rfl, rfl⟩, rfl, fun _ => rfl⟩

theorem test_witness_EventCombinations :
    ∀ i ∈ [sB 0 [5] true, sQX [5] true, sT true, .abort, .reset], i.wellFormed = true := by decide

/-- For StepKeepsTheBufferForm and StepKeepsTheInvariants: reset with a packet cut short issued. -/
theorem test_witness_StepKeepsTheInvariants : ∃ s t : State, s.port = [encode (sT true)] ∧ Memory.wf s.buf = true ∧
    Inv s ∧ step s = .next t := by
  have := bufCap_ge
  refine ⟨⟨[], 623, 0, false, 0, false, .accumulating, [encode (sT true)], []⟩, _, rfl, rfl, ⟨rfl, rfl, ?_, ?_⟩, rfl⟩
  · intro a h _
    rw [State.byte_of_lt _ _ (by omega)]
    simp [Memory.byteAt, Config.resetByte, h]
  · intro r hr
    cases hr

/-- Two states that differ in a register and not in the buffer. -/
theorem test_witness_CanonicalBuffersAreDetermined : Memory.wf State.reset.buf = true ∧ Memory.wf (at' 5 true).buf = true ∧
    ∀ a, State.reset.byte a = (at' 5 true).byte a := ⟨rfl, rfl, fun _ => rfl⟩

theorem tracked_reset : ScanTracked State.reset ⟨[], false⟩ := by
  have := bufCap_ge
  intro _
  exact ⟨rfl, by simp; omega, by simp, by simp⟩

theorem test_witness_OperationsKeepOffsetTracking : ∃ t, (sT false).wellFormed = true ∧
    ScanTracked State.reset ⟨[], false⟩ ∧ exec (sT false) State.reset = .next t :=
  ⟨_, by decide, tracked_reset, rfl⟩

theorem test_witness_EmittedFrameIsHeaderThenAllScanData : ∃ p, (sB 0 [5] true).wellFormed = true ∧
    packetOf (sB 0 [5] true) = some p ∧ p.m = true ∧ ScanTracked State.reset ⟨[], false⟩ ∧
    ¬ FrameCorrupted State.reset p := by
  refine ⟨_, by decide, rfl, rfl, tracked_reset, ?_⟩
  have := not_overrun 624 (by decide)
  simp [FrameCorrupted, State.reset, plainHdr]
  omega

theorem test_witness_CorruptedFrameIsLost : (at' 5 true).cor = true ∧
    (∀ i ∈ [sB 5 [1] false, sQ [2] false, sT false], i.operation = .pkt ∧ isMarkerPacket i = false) ∧
    isMarkerPacket (sB 0 [5] true) = true := ⟨rfl, by decide, rfl⟩

theorem test_witness_RecoveryAfterTheBoundary : ∃ p, (isMarkerPacket (sT true) = true) ∧
    packetOf (sQ [5] false) = some p ∧ p.m = false ∧ p.hdr.off.toNat = 0 ∧ (p.hdr.qh = true → p.hdr.qt = true) ∧
    623 + p.data.length ≤ Config.bufCap := by
  have := bufCap_ge
  exact ⟨_, rfl, rfl, rfl, rfl, fun _ => rfl, by simp only [List.length_cons, List.length_nil]; omega⟩

/-- Two packets with every ignored field different (R61): one with a restart-marker header and one without, each with
its own type, Q, MBZ and precision. -/
theorem test_witness_IgnoredFieldsDecideNothing : ∃ p q,
    packetOf (.pktQ ⟨9, 0, 1, 128, 40, 30⟩ ⟨8, 7, 128⟩ (rep 1 64) (rep 2 64) [5] true 3) = some p ∧
    packetOf (.pktRQ ⟨0, 0, 65, 255, 40, 30⟩ ⟨1, 2, 3, 4⟩ ⟨0, 1, 128⟩ (rep 1 64) (rep 2 64) [5] true 3) = some q ∧
    p.hdr.off = q.hdr.off ∧ p.hdr.qh = q.hdr.qh ∧ p.hdr.qt = q.hdr.qt ∧ p.hdr.width = q.hdr.width ∧
    p.hdr.height = q.hdr.height ∧ p.hdr.tab1 = q.hdr.tab1 ∧ p.hdr.tab2 = q.hdr.tab2 ∧ p.data = q.data ∧ p.m = q.m ∧
    p.ts = q.ts := ⟨_, _, rfl, rfl, rfl, rfl, rfl, rfl, rfl, rfl, rfl, rfl, rfl, rfl⟩

/-- Two instances that differ in the cursor, the timestamp registers and a stale byte of the data region. -/
theorem test_witness_AgreementIsKeptAndGivesEqualFrames :
    SameForFrames State.reset { State.reset with wc := 700, lts := 5, ltv := true, buf := [(650, Config.dataByte 650 + 1)] } := by
  refine ⟨rfl, rfl, fun a ha => ?_, fun _ a h1 h2 => ?_⟩
  · have : (a == 650) = false := beq_false_of_ne (by omega)
    simp [State.byte, Memory.byteAt, State.reset, List.lookup_cons, this]
  · have : State.reset.efo.toNat = 0 := rfl
    omega

theorem test_witness_ReuseIsLikeAFreshInstance : ∃ p, Clean State.reset ∧ HeaderRegionOk State.reset ∧
    (sQ [5] false).wellFormed = true ∧ packetOf (sQ [5] false) = some p ∧ p.hdr.qt = true := by
  have := bufCap_ge
  refine ⟨_, ⟨rfl, rfl⟩, fun a h _ => ?_, by decide, rfl, rfl⟩
  rw [State.byte_of_lt _ _ (by omega)]
  simp [Memory.byteAt, State.reset, Config.resetByte, h]

/-- Program G2's cuts: a FRAME with tables in three pieces, and one of a restart type without tables in two. -/
theorem test_witness_FragmentedFrameEqualsTheWhole : Clean State.reset ∧
    (∀ d ∈ ([[0, 1, 2, 3, 4], [5, 6, 7, 8], [9, 10, 11]] : List (List Byte)), d ≠ []) ∧
    (frameFirst ⟨0, 0, 1, 255, 80, 60⟩ ⟨0, 0, 0, 0⟩ (some (⟨0, 0, 128⟩, rep 1 64, rep 2 64))
      ([[0, 1, 2, 3, 4], [5, 6, 7, 8], [9, 10, 11]] : List (List Byte)).flatten true 3000).wellFormed = true ∧
    (frameFirst ⟨0, 0, 65, 10, 2, 1⟩ ⟨0, 8, 255, 255⟩ none ([[1], [2]] : List (List Byte)).flatten true
      4500).wellFormed = true := ⟨⟨rfl, rfl⟩, by decide, by decide, by decide⟩

end Sys2Proof.Tests
end

/-! ## Proofs of family 10, state: what one operation can do -/

namespace Sys2Proof.Machine

/-! ### One operation, inverted once -/

/-- What a parsed packet leaves, field by field (R90): `runPacket_spec` with names. -/
structure PacketEffect (p : Packet) (s t : State) (r : Result) : Prop where
  results : t.results = s.results ++ [r]
  port : t.port = s.port
  buf : t.buf = packetBuffer p.hdr p.data s.buf
  wc : t.wc = BitVec.ofNat 25 (623 + p.hdr.off.toNat + p.data.length)
  efo : t.efo = if p.m then 0 else BitVec.ofNat 25 (p.hdr.off.toNat + p.data.length)
  cor : t.cor = if p.m then false else corruptedAfter s p
  fsm : t.fsm = if p.m then .accumulating else s.fsm
  ending : PacketEnd p s t r

/-- What an operation does to a state: the state it leaves and the result it hands over. -/
inductive Effect (s : State) : Instr → State → Result → Prop
  | packet {i : Instr} {p : Packet} {t : State} {r : Result} (hp : packetOf i = some p) (e : PacketEffect p s t r) :
      Effect s i t r
  | truncated (pay : List Byte) (ts : Timestamp) (r : Result) (hr : r = ⟨none, EventVec.withEvent 0 .malformedHeader⟩) :
      Effect s (.pktTrunc pay false ts) ((s.setCor true).addResult r) r
  | truncatedBoundary (pay : List Byte) (ts : Timestamp) (r : Result)
      (hr : r = ⟨none, (EventVec.withEvent 0 .malformedHeader).withEvent .frameDiscarded⟩) :
      Effect s (.pktTrunc pay true ts) ((s.frameReset.setFsm .accumulating).addResult r) r
  | abort (r : Result) (hr : r = ⟨none, 0⟩) : Effect s .abort (s.frameReset.addResult r) r
  | reset (r : Result) (hr : r = ⟨none, 0⟩) : Effect s .reset (s.resetInstance.addResult r) r

/-- A regular form completes with its packet's effect. -/
theorem exec_packetEffect {i : Instr} {p : Packet} (hp : packetOf i = some p) (s : State) :
    ∃ t r, exec i s = .next t ∧ PacketEffect p s t r := by
  obtain ⟨t, r, ht, hres, hport, hbuf, hwc, hefo, hcor, hfsm, hend⟩ := runPacket_spec p s
  exact ⟨t, r, (exec_of_packetOf i p s hp).trans ht, hres, hport, hbuf, hwc, hefo, hcor, hfsm, hend⟩

/-- Every operation completes with one of the effects (R90, R147). -/
theorem exec_effect (i : Instr) (s : State) : ∃ t r, exec i s = .next t ∧ Effect s i t r := by
  rcases packetOf_cases i with ⟨p, hp⟩ | ⟨pay, m, ts, rfl⟩ | rfl | rfl
  · obtain ⟨t, r, ht, e⟩ := exec_packetEffect hp s
    exact ⟨t, r, ht, .packet hp e⟩
  · cases m
    · exact ⟨_, _, runMalformed_unmarked ts s, .truncated pay ts _ rfl⟩
    · exact ⟨_, _, runMalformed_marked ts s, .truncatedBoundary pay ts _ rfl⟩
  · exact ⟨_, _, rfl, .abort _ rfl⟩
  · exact ⟨_, _, rfl, .reset _ rfl⟩

/-- A next state was reached by one of the effects. -/
theorem effect_of_exec {i : Instr} {s t : State} (h : exec i s = .next t) : ∃ r, Effect s i t r := by
  obtain ⟨t', r, ht, e⟩ := exec_effect i s
  obtain rfl : t' = t := Host.Outcome.next.inj (ht.symm.trans h)
  exact ⟨r, e⟩

/-- Every operation hands over one result, after those before it. -/
theorem Effect.results {s t : State} {i : Instr} {r : Result} (e : Effect s i t r) : t.results = s.results ++ [r] := by
  cases e with
  | packet _ e => exact e.results
  | truncated | truncatedBoundary | abort | reset => rfl

/-- A step waits, or runs the instruction the first command decodes to. -/
theorem step_cases {s t : State} (h : step s = .next t) :
    t = s ∨ ∃ c rest i, decode c = .ok i ∧ exec i (s.setPort rest) = .next t := by
  unfold step at h
  split at h
  · exact .inl (Host.Outcome.next.inj h).symm
  next c rest _ =>
    split at h
    next i hi => exact .inr ⟨c, rest, i, hi, h⟩
    next => cases h

end Sys2Proof.Machine

namespace Sys2Proof

/-! ### The decoder answers well-formed instructions -/

/-- A list that does not split off four elements has fewer. -/
theorem length_lt_four {l : List Byte} (h : ∀ a b c d tail, l ≠ a :: b :: c :: d :: tail) : l.length < 4 := by
  match l with
  | [] | [_] | [_, _] | [_, _, _] => simp
  | a :: b :: c :: d :: tail => exact absurd rfl (h a b c d tail)

/-- What the quantization-table section of a payload gives: nothing where it ends too early, its tables, or its header
alone (R53, R54, R57). -/
theorem splitQuant_cases (rest : List Byte) :
    (splitQuant rest = none ∧ (rest.length < 4 ∨
      announcesTables (be16 (payByte rest 2) (payByte rest 3)) = true ∧ rest.length < 132)) ∨
    (∃ k tab1 tab2 data, splitQuant rest = some (k, some (tab1, tab2), data) ∧ announcesTables k.qlen = true ∧
      tab1.length = 64 ∧ tab2.length = 64 ∧ rest.length = 132 + data.length) ∨
    ∃ k data, splitQuant rest = some (k, none, data) ∧ announcesTables k.qlen = false ∧
      rest.length = 4 + data.length := by
  unfold splitQuant
  split
  next mbz prec l1 l0 tail =>
    by_cases ha : announcesTables (be16 l1 l0) = true
    · by_cases hl : tail.length < 128
      · left; simp [ha, hl, payByte]; omega
      · right; left; simp [ha, hl]; omega
    · right; right; simp [ha]; omega
  next hne => exact .inl ⟨rfl, .inl (length_lt_four hne)⟩

/-- When a payload that holds a whole main header is cut short (R59), the lengths counted behind that header; `n` is the
length of the restart-marker header. -/
theorem isTruncated_main_iff (tspec o2 o1 o0 typ q w8 h8 : Byte) (rest : List Byte) (n : Nat)
    (hn : n = if isRestartType typ then 4 else 0) :
    isTruncated (tspec :: o2 :: o1 :: o0 :: typ :: q :: w8 :: h8 :: rest) = true ↔
      (isRestartType typ = true ∧ rest.length < 4) ∨
      (hasQuantHeader q (be24 o2 o1 o0) = true ∧ (rest.length < n + 4 ∨
        announcesTables (be16 (payByte rest (n + 2)) (payByte rest (n + 3))) = true ∧ rest.length < n + 132)) := by
  cases hr : isRestartType typ with
  | false =>
    obtain rfl : n = 0 := by simpa [hr] using hn
    simp [isTruncated, payByte, hr]
    grind
  | true =>
    obtain rfl : n = 4 := by simpa [hr] using hn
    simp [isTruncated, payByte, hr]
    grind

/-- A payload of a restart type: PKT.RQ, PKT.RQX, PKT.R, or PKT.TRUNC where it ends too early. -/
theorem wellFormed_decodePayload_restart (tspec o2 o1 o0 typ q w8 h8 : Byte) (rest : List Byte) (m : Bool)
    (ts : Timestamp) (hl : 8 + rest.length ≤ 65535) (hr : isRestartType typ = true) :
    (decodePayload (tspec :: o2 :: o1 :: o0 :: typ :: q :: w8 :: h8 :: rest) m ts).wellFormed = true := by
  have htrunc := isTruncated_main_iff tspec o2 o1 o0 typ q w8 h8 rest 4 (by simp [hr])
  simp only [decodePayload, hr, if_true]
  split
  next r0 r1 r2 r3 rest' =>
    simp only [List.length_cons] at hl
    by_cases hq : hasQuantHeader q (be24 o2 o1 o0) = true
    · simp only [hq, if_true]
      rcases splitQuant_cases rest' with ⟨h, ht⟩ | ⟨k, t1, t2, data, h, hk, h1, h2, hd⟩ | ⟨k, data, h, hk, hd⟩
      · simp only [h, Instr.wellFormed]
        refine htrunc.2 (.inr ⟨hq, ?_⟩)
        simp only [List.length_cons]
        exact ht.imp (fun h => by omega) (fun h => ⟨h.1, by omega⟩)
      · simp [h, Instr.wellFormed, MainHeader.selects, hr, hq, hk, tablesWellFormed, fitsPayload, h1, h2]; omega
      · simp [h, Instr.wellFormed, MainHeader.selects, hr, hq, hk, fitsPayload]; omega
    · simp [hq, Instr.wellFormed, MainHeader.selects, hr, fitsPayload]; omega
  next hne => exact htrunc.2 (.inl ⟨hr, length_lt_four hne⟩)

/-- A payload of another type: PKT.Q, PKT.QX, PKT.B, or PKT.TRUNC where it ends too early. -/
theorem wellFormed_decodePayload_noRestart (tspec o2 o1 o0 typ q w8 h8 : Byte) (rest : List Byte) (m : Bool)
    (ts : Timestamp) (hl : 8 + rest.length ≤ 65535) (hr : isRestartType typ = false) :
    (decodePayload (tspec :: o2 :: o1 :: o0 :: typ :: q :: w8 :: h8 :: rest) m ts).wellFormed = true := by
  have htrunc := isTruncated_main_iff tspec o2 o1 o0 typ q w8 h8 rest 0 (by simp [hr])
  simp only [decodePayload, hr, Bool.false_eq_true, if_false]
  by_cases hq : hasQuantHeader q (be24 o2 o1 o0) = true
  · simp only [hq, if_true]
    rcases splitQuant_cases rest with ⟨h, ht⟩ | ⟨k, t1, t2, data, h, hk, h1, h2, hd⟩ | ⟨k, data, h, hk, hd⟩
    · simp only [h, Instr.wellFormed]
      refine htrunc.2 (.inr ⟨hq, ?_⟩)
      simpa using ht
    · simp [h, Instr.wellFormed, MainHeader.selects, hr, hq, hk, tablesWellFormed, fitsPayload, h1, h2]; omega
    · simp [h, Instr.wellFormed, MainHeader.selects, hr, hq, hk, fitsPayload]; omega
  · simpa [hq, Instr.wellFormed, MainHeader.selects, hr, fitsPayload] using hl

/-- Every payload that fits its length decodes to a well-formed instruction (R62). -/
theorem wellFormed_decodePayload (pay : List Byte) (m : Bool) (ts : Timestamp) (hl : pay.length ≤ 65535) :
    (decodePayload pay m ts).wellFormed = true := by
  match pay with
  | tspec :: o2 :: o1 :: o0 :: typ :: q :: w8 :: h8 :: rest =>
    have hl' : 8 + rest.length ≤ 65535 := by simp only [List.length_cons] at hl; omega
    cases hr : isRestartType typ
    · exact wellFormed_decodePayload_noRestart _ _ _ _ _ _ _ _ _ m ts hl' hr
    · exact wellFormed_decodePayload_restart _ _ _ _ _ _ _ _ _ m ts hl' hr
  | [] | [_] | [_, _] | [_, _, _] | [_, _, _, _] | [_, _, _, _, _] | [_, _, _, _, _, _] | [_, _, _, _, _, _, _] =>
    simp [decodePayload, Instr.wellFormed, isTruncated]

/-- Every command that decodes, decodes to a well-formed instruction (R5, R63). -/
theorem wellFormed_of_decode {c : Command} {i : Instr} (h : decode c = .ok i) : i.wellFormed = true := by
  unfold decode at h
  split at h
  · cases h; rfl
  · cases h; rfl
  · split at h
    next hlen =>
      cases h
      exact wellFormed_decodePayload _ _ _ (by have := c.len.isLt; omega)
    next => cases h

end Sys2Proof

namespace Sys2Proof.Machine

/-! ### The buffer: what it reads as after each operation -/

/-- Two states read alike at an address when their buffers do, or when the address does not exist. -/
theorem State.byte_eq_byte_iff (s t : State) (a : Nat) :
    s.byte a = t.byte a ↔ (a < Config.bufCap → Memory.byteAt s.buf a = Memory.byteAt t.buf a) := by
  by_cases h : a < Config.bufCap <;> simp [State.byte, h]

/-- An address of the header region exists. -/
theorem header_lt_bufCap {a : Nat} (h : a < 623) : a < Config.bufCap := by
  have := bufCap_ge
  omega

/-- The scan copy writes nothing below 623 (R98). -/
theorem byteAt_packetBuffer_header (h : Hdr) (data : List Byte) (buf : List Host.Cell) {a : Nat} (ha : a < 623) :
    Memory.byteAt (packetBuffer h data buf) a = Memory.byteAt (patchedBuffer h buf) a := by
  rw [byteAt_packetBuffer, if_neg (by omega)]

/-- A packet leaves an address alone that it neither patches nor copies scan data to. -/
theorem byteAt_packetBuffer_of_outside (h : Hdr) (data : List Byte) (buf : List Host.Cell) (a : Nat)
    (ht : h.qt = true → h.tab1.length = 64 ∧ h.tab2.length = 64) (hp : patchable a = false)
    (ha : a < 623 + h.off.toNat ∨ 623 + h.off.toNat + data.length ≤ a) :
    Memory.byteAt (packetBuffer h data buf) a = Memory.byteAt buf a := by
  simp only [patchable, Bool.or_eq_false_iff, decide_eq_false_iff_not] at hp
  obtain ⟨⟨h1, h2⟩, h3⟩ := hp
  rw [byteAt_packetBuffer, if_neg (by omega)]
  exact byteAt_patchedBuffer_of_outside h buf a (fun hq => (ht hq).1) (fun hq => (ht hq).2) ⟨h1, h2, h3⟩

/-- The patch takes buffers that read alike at an address to buffers that do. -/
theorem byteAt_patchedBuffer_congr (h : Hdr) {b b' : List Host.Cell} {a : Nat}
    (hab : Memory.byteAt b a = Memory.byteAt b' a) :
    Memory.byteAt (patchedBuffer h b) a = Memory.byteAt (patchedBuffer h b') a := by
  unfold patchedBuffer
  split
  · simp only [Memory.byteAt_writeBytes, hab]
  · exact hab

/-- A packet makes buffers read alike at an address that it copies scan data to, or where they did before. -/
theorem byteAt_packetBuffer_congr (h : Hdr) (data : List Byte) {b b' : List Host.Cell} {a : Nat} (hc : a < Config.bufCap)
    (hab : (623 + h.off.toNat ≤ a ∧ a < 623 + h.off.toNat + data.length) ∨ Memory.byteAt b a = Memory.byteAt b' a) :
    Memory.byteAt (packetBuffer h data b) a = Memory.byteAt (packetBuffer h data b') a := by
  rw [byteAt_packetBuffer, byteAt_packetBuffer]
  rcases hab with ⟨h1, h2⟩ | hab
  · rw [if_pos ⟨h1, h2, hc⟩, if_pos ⟨h1, h2, hc⟩]
  · rw [byteAt_patchedBuffer_congr h hab]

/-- After RESET the header region is the template (R125). -/
theorem byteAt_resetInstance_header (s : State) {a : Nat} (ha : a < 623) :
    Memory.byteAt s.resetInstance.buf a = Config.template[a] := by
  have := header_lt_bufCap ha
  rw [State.resetInstance_buf, Memory.byteAt_writeBytes, if_pos (by simp; omega)]
  simp [ha]

/-- A byte of the header region, as a byte of the state. -/
theorem headerRegionOk_iff (s : State) :
    HeaderRegionOk s ↔ ∀ (a : Nat) (h : a < 623), patchable a = false → Memory.byteAt s.buf a = Config.template[a] := by
  have hb : ∀ {a : Nat}, a < 623 → s.byte a = some (Memory.byteAt s.buf a) := fun h =>
    State.byte_of_lt _ _ (header_lt_bufCap h)
  constructor
  · intro h a ha hp
    exact Option.some.inj ((hb ha).symm.trans (h a ha hp))
  · intro h a ha hp
    rw [hb ha, h a ha hp]

/-- With strictly rising addresses, looking up finds exactly the listed cells. -/
theorem lookup_eq_some_iff_of_rising {buf : List Host.Cell} (hs : buf.Pairwise (fun c d => c.1 < d.1)) (a : Nat)
    (v : Byte) : buf.lookup a = some v ↔ (a, v) ∈ buf := by
  induction buf with
  | nil => simp
  | cons c buf ih =>
    obtain ⟨b, w⟩ := c
    obtain ⟨hb, hs⟩ := List.pairwise_cons.1 hs
    by_cases h : a = b
    · subst h
      have hnot : (a, v) ∉ buf := fun hm => Nat.lt_irrefl a (hb _ hm)
      simp [hnot, eq_comm]
    · simp [List.lookup_cons, beq_false_of_ne h, h, ih hs]

/-- What a buffer in canonical form lists: the addresses that exist and read unlike their reset contents. -/
theorem Memory.mem_iff_of_wf {buf : List Host.Cell} (hw : Memory.wf buf = true) (a : Nat) (v : Byte) :
    (a, v) ∈ buf ↔ a < Config.bufCap ∧ v ≠ Config.resetByte a ∧ Memory.byteAt buf a = v := by
  obtain ⟨hs, hcells⟩ := (Memory.wf_iff buf).1 hw
  constructor
  · intro hm
    obtain ⟨ha, hv⟩ := hcells _ hm
    exact ⟨ha, hv, by simp [Memory.byteAt, (lookup_eq_some_iff_of_rising hs a v).2 hm]⟩
  · rintro ⟨-, hv, rfl⟩
    cases hl : buf.lookup a with
    | none => simp [Memory.byteAt, hl] at hv
    | some w => simpa [Memory.byteAt, hl] using (lookup_eq_some_iff_of_rising hs a w).1 hl

/-- Buffers in canonical form that read alike wherever an address exists are equal. -/
theorem Memory.eq_of_wf {b b' : List Host.Cell} (hb : Memory.wf b = true) (hb' : Memory.wf b' = true)
    (h : ∀ a, a < Config.bufCap → Memory.byteAt b a = Memory.byteAt b' a) : b = b' := by
  obtain ⟨hs, -⟩ := (Memory.wf_iff b).1 hb
  obtain ⟨hs', -⟩ := (Memory.wf_iff b').1 hb'
  have hmem : ∀ c, c ∈ b ↔ c ∈ b' := by
    rintro ⟨a, v⟩
    rw [Memory.mem_iff_of_wf hb, Memory.mem_iff_of_wf hb']
    exact and_congr_right fun ha => by rw [h a ha]
  have hirr : Std.Irrefl (fun c d : Host.Cell => c.1 < d.1) := ⟨fun c => Nat.lt_irrefl c.1⟩
  have hanti : Std.Antisymm (fun c d : Host.Cell => c.1 < d.1) := ⟨fun _ _ h h' => absurd h (Nat.lt_asymm h')⟩
  exact hs.eq_of_mem_iff hs' hmem

end Sys2Proof.Machine

/-! ## Invariants of every step -/

namespace Sys2Proof.Machine

/-- Every operation keeps the canonical form of the buffer. -/
theorem Effect.wf {s t : State} {i : Instr} {r : Result} (e : Effect s i t r) (hw : Memory.wf s.buf = true) :
    Memory.wf t.buf = true := by
  cases e with
  | packet _ e => rw [e.buf]; exact wf_packetBuffer _ _ _ hw
  | truncated | truncatedBoundary | abort => exact hw
  | reset => exact Memory.wf_writeBytes _ _ _ hw

/-- Settles O46: a step waits or has an effect, and every effect keeps the form. -/
theorem stepKeepsTheBufferForm : Obligations.StepKeepsTheBufferForm := by
  intro s t hw h
  rcases step_cases h with rfl | ⟨_, rest, _, -, h⟩
  · exact hw
  · obtain ⟨_, e⟩ := effect_of_exec h
    exact e.wf hw

/-- Settles O47: a canonical buffer lists exactly what reads unlike its reset contents. -/
theorem canonicalBuffersAreDetermined : Obligations.CanonicalBuffersAreDetermined := by
  intro s t hs ht h
  exact Memory.eq_of_wf hs ht fun a => (State.byte_eq_byte_iff s t a).1 (h a)

/-- Every operation leaves the control state ACCUMULATING when it found it so (R20, R122). -/
theorem Effect.fsm {s t : State} {i : Instr} {r : Result} (e : Effect s i t r) (h : s.fsm = .accumulating) :
    t.fsm = .accumulating := by
  cases e with
  | packet _ e => rw [e.fsm, h, ite_self]
  | truncated | abort => exact h
  | truncatedBoundary | reset => rfl

/-- Every operation keeps the template in the header region outside the patchable addresses (R25). -/
theorem Effect.headerRegionOk {s t : State} {i : Instr} {r : Result} (e : Effect s i t r) (hw : i.wellFormed = true)
    (h : HeaderRegionOk s) : HeaderRegionOk t := by
  rw [headerRegionOk_iff] at h ⊢
  intro a ha hp
  cases e with
  | packet hpkt e =>
    obtain ⟨-, -, -, htab, -⟩ := packetOf_wellFormed _ _ hw hpkt
    rw [e.buf, byteAt_packetBuffer_of_outside _ _ _ _ htab hp (by omega), h a ha hp]
  | truncated | truncatedBoundary | abort => exact h a ha hp
  | reset => exact byteAt_resetInstance_header s ha

/-! ### The frame an operation hands over -/

/-- What a boundary emits: the buffer's bytes `[0, WC)` (R111, R112). -/
def State.emission (s : State) (ts : Timestamp) : Frame :=
  ⟨(List.range' 0 s.wc.toNat).map (Memory.byteAt s.buf), s.wc, true, ts⟩

@[simp] theorem State.emission_length (s : State) (ts : Timestamp) : (s.emission ts).bytes.length = s.wc.toNat := by
  simp [State.emission]

@[simp] theorem State.emission_getElem (s : State) (ts : Timestamp) (a : Nat) (h : a < (s.emission ts).bytes.length) :
    (s.emission ts).bytes[a] = Memory.byteAt s.buf a := by
  simp [State.emission]

/-- The frame of a packet: the emission exactly where the packet is marked and the frame is not corrupted (R110). -/
theorem PacketEffect.frame {p : Packet} {s t : State} {r : Result} (e : PacketEffect p s t r) :
    r.frame = if p.m = true ∧ corruptedAfter s p = false then some (t.emission p.ts) else none := by
  rcases e.ending with ⟨hno, hf, -⟩ | ⟨hm, hc, -, -, -, bytes, hread, hf⟩
  · rw [hf, if_neg]
    rintro ⟨hm, hc⟩
    rcases hno with h | h
    · exact Bool.noConfusion (hm.symm.trans h)
    · exact Bool.noConfusion (hc.symm.trans h)
  · rw [hf, if_pos ⟨hm, hc⟩]
    unfold Memory.read at hread
    split at hread
    · cases hread; rfl
    · cases hread

/-- Steps 2 to 5 leave the frame clean: it was, the offset is the expected one, the table length is not bad, and the copy
fits (R92, R93, R99). -/
theorem corruptedAfter_eq_false_iff (s : State) (p : Packet) :
    corruptedAfter s p = false ↔ s.cor = false ∧ p.hdr.off.toNat = s.efo.toNat ∧ badTableLength p.hdr = false ∧
      623 + p.hdr.off.toNat + p.data.length ≤ Config.bufCap := by
  simp [corruptedAfter, and_assoc]

/-- Scan data of a well-formed packet fits a payload (R97). -/
theorem data_length_le {i : Instr} {p : Packet} (hw : i.wellFormed = true) (hp : packetOf i = some p) :
    p.data.length ≤ 65535 := by
  obtain ⟨hl, -⟩ := packetOf_wellFormed i p hw hp
  omega

/-- The cursor of a packet as a number (R100, R106). -/
theorem PacketEffect.wc_toNat {p : Packet} {s t : State} {r : Result} (e : PacketEffect p s t r)
    (hl : p.data.length ≤ 65535) : t.wc.toNat = 623 + p.hdr.off.toNat + p.data.length := by
  rw [e.wc, (packet_toNat p hl).1]

/-- A state whose header region is in order and whose cursor lies within the buffer emits a frame within the bounds of
R121. -/
theorem frameOk_emission {t : State} (ts : Timestamp) (h : HeaderRegionOk t) (hlo : 623 ≤ t.wc.toNat)
    (hhi : t.wc.toNat ≤ Config.bufCap) : FrameOk (t.emission ts) := by
  refine ⟨(t.emission_length ts).symm, by simpa using hlo, by simpa using hhi, rfl, fun a ha hp => ?_⟩
  have hlt : a < (t.emission ts).bytes.length := by rw [State.emission_length]; omega
  rw [List.getD_eq_getElem _ _ hlt, State.emission_getElem, (headerRegionOk_iff t).1 h a ha hp]

/-- A frame that a well-formed operation hands over is within its bounds (R112, R121). -/
theorem Effect.frameOk {s t : State} {i : Instr} {r : Result} {f : Frame} (e : Effect s i t r)
    (hw : i.wellFormed = true) (h : HeaderRegionOk t) (hf : r.frame = some f) : FrameOk f := by
  cases e with
  | @packet _ p _ _ hp e =>
    rw [e.frame] at hf
    split at hf
    next hc =>
      cases hf
      obtain ⟨-, -, -, hfits⟩ := (corruptedAfter_eq_false_iff s p).1 hc.2
      have hwc := e.wc_toNat (data_length_le hw hp)
      exact frameOk_emission p.ts h (by omega) (by omega)
    next => cases hf
  | truncated _ _ _ hr | truncatedBoundary _ _ _ hr | abort _ hr | reset _ hr => subst hr; cases hf

/-- Every well-formed operation keeps the invariants. -/
theorem Effect.inv {s t : State} {i : Instr} {r : Result} (e : Effect s i t r) (hw : i.wellFormed = true) (h : Inv s) :
    Inv t := by
  obtain ⟨hbuf, hfsm, hhead, hframes⟩ := h
  have hhead' := e.headerRegionOk hw hhead
  refine ⟨e.wf hbuf, e.fsm hfsm, hhead', fun q hq f hf => ?_⟩
  rw [e.results, List.mem_append, List.mem_singleton] at hq
  rcases hq with hq | rfl
  · exact hframes q hq f hf
  · exact e.frameOk hw hhead' hf

/-- Settles O48: the instruction a step runs comes from the decoder and so is well-formed; taking its command off the port
touches no invariant. -/
theorem stepKeepsTheInvariants : Obligations.StepKeepsTheInvariants := by
  intro s t hinv h
  rcases step_cases h with rfl | ⟨c, rest, i, hi, h⟩
  · exact hinv
  · obtain ⟨_, e⟩ := effect_of_exec h
    exact e.inv (wellFormed_of_decode hi) hinv

end Sys2Proof.Machine

/-! ## The header region, the per-frame state and the reset state -/

namespace Sys2Proof.Machine

/-- Settles O29: tables come at offset 0 only, and the scan copy starts at 623. -/
theorem onlyTheFirstFragmentWritesTheHeader : Obligations.OnlyTheFirstFragmentWritesTheHeader := by
  intro i p s hw hp hoff
  obtain ⟨t, r, ht, e⟩ := exec_packetEffect hp s
  obtain ⟨-, -, hqh, -, hzero⟩ := packetOf_wellFormed i p hw hp
  have hqt : p.hdr.qt = false := Bool.eq_false_iff.2 fun hq => hoff (hzero (hqh hq))
  refine ⟨t, ht, fun a ha => State.byte_congr t s a ?_⟩
  rw [e.buf, byteAt_packetBuffer_header _ _ _ ha]
  simp [patchedBuffer, hqt]

/-- The per-frame state after a marked packet (R27, R114, R122). -/
theorem Effect.boundary {s t : State} {i : Instr} {r : Result} (e : Effect s i t r) (hm : isMarkerPacket i = true) :
    t.efo = 0 ∧ t.cor = false ∧ t.fsm = .accumulating := by
  cases e with
  | @packet _ p _ _ hp e =>
    have hpm : p.m = true := (isMarkerPacket_of_packetOf _ _ hp).symm.trans hm
    exact ⟨by rw [e.efo, if_pos hpm], by rw [e.cor, if_pos hpm], by rw [e.fsm, if_pos hpm]⟩
  | truncatedBoundary => exact ⟨rfl, rfl, rfl⟩
  | truncated | abort | reset => cases hm

/-- Settles O39: the effect of a marked packet, emitted or not. -/
theorem boundaryAlwaysResetsThePerFrameState : Obligations.BoundaryAlwaysResetsThePerFrameState := by
  intro i s hm
  obtain ⟨t, r, ht, e⟩ := exec_effect i s
  exact ⟨t, ht, e.boundary hm⟩

/-- An unmarked packet ends with the frame corrupted when it was so before (R17). -/
theorem corruptedAfter_of_cor {s : State} (p : Packet) (h : s.cor = true) : corruptedAfter s p = true := by
  simp [corruptedAfter, h]

/-- A packet that corrupts a clean frame raises one of the three corruption events (R136 to R138). -/
theorem packetEvents_of_corruptedAfter {s : State} {p : Packet} (h : s.cor = false) (hc : corruptedAfter s p = true) :
    (packetEvents s p).has .offsetMismatch = true ∨ (packetEvents s p).has .malformedHeader = true ∨
      (packetEvents s p).has .bufferOverrun = true := by
  simpa [corruptedAfter, h, packetEvents, corruptionEvents_has, or_assoc] using hc

/-- The events of an unmarked packet are its corruption events. -/
theorem PacketEffect.events_of_unmarked {p : Packet} {s t : State} {r : Result} (e : PacketEffect p s t r)
    (hm : p.m = false) : r.events = packetEvents s p := by
  rcases e.ending with ⟨-, -, -, -, hev⟩ | ⟨hm', -⟩
  · simpa [hm] using hev
  · exact Bool.noConfusion (hm.symm.trans hm')

/-- `COR` is cleared by a boundary, ABORT or RESET only (R17). -/
theorem Effect.cor_cleared {s t : State} {i : Instr} {r : Result} (e : Effect s i t r) (hs : s.cor = true)
    (ht : t.cor = false) : isMarkerPacket i = true ∨ i = .abort ∨ i = .reset := by
  cases e with
  | @packet _ p _ _ hp e =>
    cases hm : p.m
    · rw [e.cor, hm, corruptedAfter_of_cor p hs] at ht
      cases ht
    · exact .inl ((isMarkerPacket_of_packetOf _ _ hp).trans hm)
  | truncated => cases ht
  | truncatedBoundary => exact .inl rfl
  | abort => exact .inr (.inl rfl)
  | reset => exact .inr (.inr rfl)

/-- `COR` is set by an unmarked packet only, together with a corruption event (R136 to R138). -/
theorem Effect.cor_set {s t : State} {i : Instr} {r : Result} (e : Effect s i t r) (hs : s.cor = false)
    (ht : t.cor = true) : isMarkerPacket i = false ∧ (r.events.has .offsetMismatch = true ∨
      r.events.has .malformedHeader = true ∨ r.events.has .bufferOverrun = true) := by
  cases e with
  | @packet _ p _ _ hp e =>
    cases hm : p.m
    · rw [e.cor, hm] at ht
      rw [e.events_of_unmarked hm]
      exact ⟨(isMarkerPacket_of_packetOf _ _ hp).trans hm, packetEvents_of_corruptedAfter hs ht⟩
    · rw [e.cor, hm] at ht
      cases ht
  | truncated _ _ _ hr => subst hr; exact ⟨rfl, .inr (.inl rfl)⟩
  | truncatedBoundary | abort | reset => cases ht

/-- Settles O45: the two directions of `COR`, over every effect. -/
theorem corruptedIsStickyUntilTheBoundary : Obligations.CorruptedIsStickyUntilTheBoundary := by
  intro i s
  obtain ⟨t, r, ht, e⟩ := exec_effect i s
  exact ⟨t, r, ht, e.results, e.cor_cleared, e.cor_set⟩

/-- The reset state's buffer lists nothing, so it reads as the reset contents. -/
theorem byte_reset {a : Nat} (ha : a < Config.bufCap) : State.reset.byte a = some (Config.resetByte a) :=
  State.byte_of_lt _ _ ha

/-- The reset contents of the header region are the template (R13). -/
theorem byte_reset_header {a : Nat} (h : a < 623) : State.reset.byte a = some Config.template[a] := by
  rw [byte_reset (header_lt_bufCap h), Config.resetByte, dif_pos h]

/-- Settles O23: an empty list of cells reads as the reset contents, and the registers stand in the definition. -/
theorem resetStateValues : Obligations.ResetStateValues := by
  refine ⟨fun a h => byte_reset_header h, fun a hlo hhi => ?_, rfl, rfl, rfl, rfl, rfl, rfl, rfl, rfl⟩
  rw [byte_reset hhi, Config.resetByte, dif_neg (by omega)]

end Sys2Proof.Machine

/-! ## Offset tracking and the frame's contents -/

namespace Sys2Proof.Machine

/-- Between frames nothing has arrived, and nothing is tracked (R26, R145). -/
theorem scanTracked_of_clean {s : State} (h : Clean s) : ScanTracked s ⟨[], false⟩ := by
  intro _
  have hcap := bufCap_ge
  obtain ⟨hefo, -⟩ := h
  exact ⟨by simp [hefo], by simp only [List.length_nil]; omega, by simp, by simp⟩

/-- Settles O49: the reset state's buffer is empty and it is clean. -/
theorem resetMeetsTheInvariants : Obligations.ResetMeetsTheInvariants := by
  have hframes : FramesOk State.reset := fun r hr => absurd hr List.not_mem_nil
  exact ⟨⟨rfl, rfl, fun a h _ => byte_reset_header h, hframes⟩, scanTracked_of_clean ⟨rfl, rfl⟩⟩

/-- A marked packet ends the history of its frame. -/
theorem History.next_of_marker (g : History) {i : Instr} (hm : isMarkerPacket i = true) : g.next i = ⟨[], false⟩ := by
  cases i <;> simp_all [History.next, Instr.operation, isMarkerPacket]

/-- An unmarked regular form adds its scan data to the history. -/
theorem History.next_of_packetOf (g : History) {i : Instr} {p : Packet} (hp : packetOf i = some p) (hm : p.m = false) :
    g.next i = ⟨g.scan ++ p.data, true⟩ := by
  have hop : i.operation = .pkt := by cases i <;> simp_all [packetOf, Instr.operation]
  simp [History.next, hop, isMarkerPacket_of_packetOf i p hp, hm, hp]

/-- The scan copy puts its data where it belongs, as far as the buffer reaches (R98). -/
theorem byteAt_packetBuffer_data (h : Hdr) (data : List Byte) (buf : List Host.Cell) (k : Nat) (hk : k < data.length)
    (hc : 623 + h.off.toNat + k < Config.bufCap) :
    Memory.byteAt (packetBuffer h data buf) (623 + h.off.toNat + k) = data[k] :=
  Memory.byteAt_writeBytes_of_inside data _ _ k hk hc

/-- A packet that leaves the frame clean comes where the tracked scan data ends and puts its own behind it (R26). -/
theorem PacketEffect.scan {i : Instr} {p : Packet} {s t : State} {r : Result} {g : History} (e : PacketEffect p s t r)
    (hw : i.wellFormed = true) (hp : packetOf i = some p) (hc : corruptedAfter s p = false) (hg : ScanTracked s g) :
    p.hdr.off.toNat = g.scan.length ∧ 623 + (g.scan ++ p.data).length ≤ Config.bufCap ∧
      ∀ k (h : k < (g.scan ++ p.data).length), t.byte (623 + k) = some (g.scan ++ p.data)[k] := by
  obtain ⟨hcor, hoff, -, hfits⟩ := (corruptedAfter_eq_false_iff s p).1 hc
  obtain ⟨hefo, -, hbytes, -⟩ := hg hcor
  obtain ⟨-, -, -, htab, -⟩ := packetOf_wellFormed i p hw hp
  have hstart : p.hdr.off.toNat = g.scan.length := hoff.trans hefo
  refine ⟨hstart, by rw [List.length_append]; omega, fun k hk => ?_⟩
  rw [List.length_append] at hk
  rw [State.byte_of_lt _ _ (by omega), e.buf]
  by_cases hold : k < g.scan.length
  · have hpatch : patchable (623 + k) = false := by simp [patchable]; omega
    rw [byteAt_packetBuffer_of_outside _ _ _ _ htab hpatch (by omega), List.getElem_append_left hold, ← hbytes k hold,
      State.byte_of_lt _ _ (by omega)]
  · obtain ⟨j, rfl⟩ := Nat.exists_eq_add_of_le (Nat.le_of_not_lt hold)
    have haddr : 623 + (g.scan.length + j) = 623 + p.hdr.off.toNat + j := by omega
    rw [haddr, byteAt_packetBuffer_data _ _ _ _ (by omega) (by omega)]
    simp

/-- An unmarked packet keeps offset tracking, its scan data added. -/
theorem PacketEffect.scanTracked {i : Instr} {p : Packet} {s t : State} {r : Result} {g : History}
    (e : PacketEffect p s t r) (hw : i.wellFormed = true) (hp : packetOf i = some p) (hm : p.m = false)
    (hg : ScanTracked s g) : ScanTracked t ⟨g.scan ++ p.data, true⟩ := by
  intro hcor
  rw [e.cor, hm] at hcor
  obtain ⟨hstart, hfits, hbytes⟩ := e.scan hw hp hcor hg
  have hl := data_length_le hw hp
  have hwc := e.wc_toNat hl
  have hefo : t.efo.toNat = p.hdr.off.toNat + p.data.length := by
    rw [e.efo, hm]
    exact (packet_toNat p hl).2
  exact ⟨by rw [hefo, hstart, List.length_append], hfits, hbytes, fun _ => by omega⟩

/-- Settles O50: what ends a frame starts an empty history from a clean state; an unmarked packet cut short corrupts the
frame, so that nothing is claimed; an unmarked regular form adds its scan data. -/
theorem operationsKeepOffsetTracking : Obligations.OperationsKeepOffsetTracking := by
  intro i s t g hw hg h
  obtain ⟨r, e⟩ := effect_of_exec h
  cases hmark : isMarkerPacket i with
  | true =>
    obtain ⟨hefo, hcor, -⟩ := e.boundary hmark
    rw [g.next_of_marker hmark]
    exact scanTracked_of_clean ⟨hefo, hcor⟩
  | false =>
    cases e with
    | @packet _ p _ _ hp e =>
      have hm : p.m = false := (isMarkerPacket_of_packetOf i p hp).symm.trans hmark
      rw [g.next_of_packetOf hp hm]
      exact e.scanTracked hw hp hm hg
    | truncated => exact fun hcor => Bool.noConfusion hcor
    | truncatedBoundary => cases hmark
    | abort | reset => exact scanTracked_of_clean ⟨rfl, rfl⟩

/-- The result handed over last carries the frame. -/
theorem lastFrame_of_results {t : State} {rs : List Result} {r : Result} (h : t.results = rs ++ [r]) :
    lastFrame t = r.frame := by
  simp [lastFrame, h]

/-- Settles O51: the emission reads `[0, 623 + off + n)`, of which the part behind the header is the tracked scan data. -/
theorem emittedFrameIsHeaderThenAllScanData : Obligations.EmittedFrameIsHeaderThenAllScanData := by
  intro i p s g hw hp hm hg hclean
  obtain ⟨t, r, ht, e⟩ := exec_packetEffect hp s
  have hc : corruptedAfter s p = false := Bool.eq_false_iff.2 (mt (corruptedAfter_iff s p).1 hclean)
  obtain ⟨hstart, hfits, hbytes⟩ := e.scan hw hp hc hg
  have hwc : t.wc.toNat = 623 + g.scan.length + p.data.length := by
    rw [e.wc_toNat (data_length_le hw hp), hstart]
  rw [List.length_append] at hfits
  refine ⟨t, t.emission p.ts, ht, ?_, by rw [State.emission_length, hwc], ?_, fun a ha => ?_⟩
  · rw [lastFrame_of_results e.results, e.frame, if_pos ⟨hm, hc⟩]
  · apply List.ext_getElem
    · rw [List.length_drop, State.emission_length, hwc, List.length_append]; omega
    · intro k _ hk
      rw [List.getElem_drop, State.emission_getElem, ← Option.some_inj, ← hbytes k hk, State.byte_of_lt]
      rw [List.length_append] at hk; omega
  · rw [List.getElem?_eq_getElem (by rw [State.emission_length]; omega), State.emission_getElem]
    exact State.byte_of_lt _ _ (header_lt_bufCap ha)

end Sys2Proof.Machine

/-! ## Comparisons of two instances -/

namespace Sys2Proof.Machine

/-- Clean states that agree on the header region agree on what frames are made of. -/
theorem sameForFrames_of_clean {t t' : State} (h : Clean t) (h' : Clean t')
    (hhead : ∀ a, a < 623 → t.byte a = t'.byte a) : SameForFrames t t' := by
  obtain ⟨hefo, hcor⟩ := h
  obtain ⟨hefo', hcor'⟩ := h'
  refine ⟨hefo.trans hefo'.symm, hcor.trans hcor'.symm, hhead, fun _ a hlo hhi => ?_⟩
  rw [hefo] at hhi
  exact absurd hhi (Nat.not_lt.2 hlo)

section Agreement

variable {p : Packet} {s s' t t' : State} {r r' : Result}

/-- Instances that agree find a packet corrupting or not alike. -/
theorem SameForFrames.corruptedAfter_eq (h : SameForFrames s s') (p : Packet) :
    corruptedAfter s p = corruptedAfter s' p := by
  obtain ⟨hefo, hcor, -⟩ := h
  rw [corruptedAfter, corruptedAfter, hefo, hcor]

/-- After a packet, instances that agreed read alike in the header region. -/
theorem SameForFrames.header (h : SameForFrames s s') (e : PacketEffect p s t r) (e' : PacketEffect p s' t' r')
    {a : Nat} (ha : a < 623) : t.byte a = t'.byte a := by
  obtain ⟨-, -, hhead, -⟩ := h
  rw [State.byte_eq_byte_iff, e.buf, e'.buf]
  exact fun hc => byteAt_packetBuffer_congr _ _ hc (.inr ((State.byte_eq_byte_iff s s' a).1 (hhead a ha) hc))

/-- After a packet that leaves the frame clean, instances that agreed read alike up to the end of its scan data: below
its offset they did before, since the offset is the expected one, and from there on both hold the data. -/
theorem SameForFrames.byte_eq (h : SameForFrames s s') (e : PacketEffect p s t r) (e' : PacketEffect p s' t' r')
    (hc : corruptedAfter s p = false) {a : Nat} (ha : a < 623 + p.hdr.off.toNat + p.data.length) :
    t.byte a = t'.byte a := by
  by_cases hlow : a < 623
  · exact h.header e e' hlow
  obtain ⟨hcor, hoff, -, -⟩ := (corruptedAfter_eq_false_iff s p).1 hc
  obtain ⟨-, -, -, hdata⟩ := h
  rw [State.byte_eq_byte_iff, e.buf, e'.buf]
  refine fun hcap => byteAt_packetBuffer_congr _ _ hcap ?_
  by_cases hcopy : 623 + p.hdr.off.toNat ≤ a
  · exact .inl ⟨hcopy, ha⟩
  · exact .inr ((State.byte_eq_byte_iff s s' a).1 (hdata hcor a (by omega) (by omega)) hcap)

/-- Emissions of states with equal cursors that read alike below it are equal. -/
theorem emission_congr (hwc : t.wc = t'.wc) (hcap : t.wc.toNat ≤ Config.bufCap)
    (hb : ∀ a, a < t.wc.toNat → t.byte a = t'.byte a) (ts : Timestamp) : t.emission ts = t'.emission ts := by
  have hmap : (List.range' 0 t.wc.toNat).map (Memory.byteAt t.buf) =
      (List.range' 0 t.wc.toNat).map (Memory.byteAt t'.buf) := by
    refine List.map_congr_left fun a ha => ?_
    have ha : a < t.wc.toNat := by simpa using ha
    exact (State.byte_eq_byte_iff t t' a).1 (hb a ha) (by omega)
  rw [State.emission, State.emission, hmap, hwc]

/-- Instances that agree hand over the same frame for a packet. The cursor may wrap for a packet that no command
carries; it still lies within the scan data. -/
theorem SameForFrames.frame_eq (h : SameForFrames s s') (e : PacketEffect p s t r) (e' : PacketEffect p s' t' r') :
    r.frame = r'.frame := by
  rw [e.frame, e'.frame, ← h.corruptedAfter_eq p]
  split
  next hc =>
    obtain ⟨-, -, -, hfits⟩ := (corruptedAfter_eq_false_iff s p).1 hc.2
    have hwc : t.wc.toNat ≤ 623 + p.hdr.off.toNat + p.data.length := by
      rw [e.wc, BitVec.toNat_ofNat]
      exact Nat.mod_le _ _
    rw [emission_congr (e.wc.trans e'.wc.symm) (by omega) fun a ha => h.byte_eq e e' hc.2 (by omega)]
  next => rfl

/-- Instances that agree do so again after a packet. -/
theorem SameForFrames.packet (h : SameForFrames s s') (e : PacketEffect p s t r) (e' : PacketEffect p s' t' r') :
    SameForFrames t t' := by
  have hefo : t.efo = t'.efo := e.efo.trans e'.efo.symm
  have hcor : t.cor = t'.cor := by rw [e.cor, e'.cor, h.corruptedAfter_eq p]
  cases hm : p.m with
  | true =>
    exact sameForFrames_of_clean ⟨by rw [e.efo, if_pos hm], by rw [e.cor, if_pos hm]⟩
      ⟨by rw [e'.efo, if_pos hm], by rw [e'.cor, if_pos hm]⟩ fun a ha => h.header e e' ha
  | false =>
    refine ⟨hefo, hcor, fun a ha => h.header e e' ha, fun hc a _ hhi => ?_⟩
    rw [e.cor, hm] at hc
    have hle : t.efo.toNat ≤ p.hdr.off.toNat + p.data.length := by
      rw [e.efo, hm]
      exact Nat.mod_le _ _
    exact h.byte_eq e e' hc (by omega)

end Agreement

/-- Settles O58: a regular form by its packet's effect on both instances; what ends a frame leaves both clean; an unmarked
packet cut short corrupts both, and the data region then no longer counts. -/
theorem agreementIsKeptAndGivesEqualFrames : Obligations.AgreementIsKeptAndGivesEqualFrames := by
  intro i s s' h
  have ⟨hefo, _, hhead, _⟩ := h
  rcases packetOf_cases i with ⟨p, hp⟩ | ⟨pay, m, ts, rfl⟩ | rfl | rfl
  · obtain ⟨t, r, ht, e⟩ := exec_packetEffect hp s
    obtain ⟨t', r', ht', e'⟩ := exec_packetEffect hp s'
    exact ⟨t, t', r, r', ht, ht', e.results, e'.results, h.frame_eq e e', h.packet e e'⟩
  · cases m with
    | false =>
      exact ⟨_, _, _, _, runMalformed_unmarked ts s, runMalformed_unmarked ts s', rfl, rfl, rfl,
        hefo, rfl, hhead, fun hc => Bool.noConfusion hc⟩
    | true =>
      exact ⟨_, _, _, _, runMalformed_marked ts s, runMalformed_marked ts s', rfl, rfl, rfl,
        sameForFrames_of_clean ⟨rfl, rfl⟩ ⟨rfl, rfl⟩ hhead⟩
  · exact ⟨_, _, _, _, rfl, rfl, rfl, rfl, rfl, sameForFrames_of_clean ⟨rfl, rfl⟩ ⟨rfl, rfl⟩ hhead⟩
  · refine ⟨_, _, _, _, rfl, rfl, rfl, rfl, rfl, sameForFrames_of_clean ⟨rfl, rfl⟩ ⟨rfl, rfl⟩ fun a ha => ?_⟩
    exact State.byte_congr _ _ a ((byteAt_resetInstance_header s ha).trans (byteAt_resetInstance_header s' ha).symm)

/-- The events of a packet but the timestamp diagnostic: its corruption events, and the discard where it is marked and
the frame is corrupted (R113). -/
theorem PacketEffect.has_of_ne {p : Packet} {s t : State} {r : Result} (e : PacketEffect p s t r) {ev : Event}
    (hev : ev ≠ .tsNonincreasing) : r.events.has ev =
      ((packetEvents s p).has ev || (p.m && corruptedAfter s p && decide (Event.frameDiscarded = ev))) := by
  rcases e.ending with ⟨hno, -, -, -, h⟩ | ⟨hm, hc, -, -, h, -⟩
  · cases hm : p.m
    · simp [h, hm]
    · have hc : corruptedAfter s p = true := hno.resolve_left (by simp [hm])
      simp [h, hm, hc]
  · rw [h, hc]
    split <;> simp [hev.symm]

/-- Settles O56: no condition of a packet but the timestamp diagnostic's reads `LTS` or `LTV`. -/
theorem timestampRegistersInfluenceOnlyTheDiagnostic : Obligations.TimestampRegistersInfluenceOnlyTheDiagnostic := by
  intro i s lts ltv
  rcases packetOf_cases i with ⟨p, hp⟩ | ⟨pay, m, ts, rfl⟩ | rfl | rfl
  · obtain ⟨t, r, ht, e⟩ := exec_packetEffect hp s
    obtain ⟨u, q, hu, e'⟩ := exec_packetEffect hp { s with lts := lts, ltv := ltv }
    have hbuf : t.buf = u.buf := e.buf.trans e'.buf.symm
    have hwc : t.wc = u.wc := e.wc.trans e'.wc.symm
    have hframe : r.frame = q.frame := by
      rw [e.frame, e'.frame, State.emission, State.emission, hbuf, hwc]
      rfl
    refine ⟨t, u, r, q, ht, hu, e.results, e'.results, hbuf, hwc, e.efo.trans e'.efo.symm, e.cor.trans e'.cor.symm,
      e.fsm.trans e'.fsm.symm, hframe, fun ev hev => ?_⟩
    exact (e.has_of_ne hev).trans (e'.has_of_ne hev).symm
  · cases m with
    | false =>
      exact ⟨_, _, _, _, runMalformed_unmarked ts s, runMalformed_unmarked ts _, rfl, rfl, rfl, rfl, rfl, rfl, rfl, rfl,
        fun _ _ => rfl⟩
    | true =>
      exact ⟨_, _, _, _, runMalformed_marked ts s, runMalformed_marked ts _, rfl, rfl, rfl, rfl, rfl, rfl, rfl, rfl,
        fun _ _ => rfl⟩
  · exact ⟨_, _, _, _, rfl, rfl, rfl, rfl, rfl, rfl, rfl, rfl, rfl, rfl, fun _ _ => rfl⟩
  · exact ⟨_, _, _, _, rfl, rfl, rfl, rfl, rfl, rfl, rfl, rfl, rfl, rfl, fun _ _ => rfl⟩

end Sys2Proof.Machine

/-! ## Proofs of family 20, memory: commands, registers and the buffer -/

namespace Sys2Proof

/-! ### The decoder reads what the encoder writes -/

/-- Big-endian assembly takes back the three bytes of an offset (R36). -/
@[simp] theorem be24_byteOf (v : FragOffset) : be24 (byteOf v.toNat 2) (byteOf v.toNat 1) (byteOf v.toNat 0) = v := by
  have := v.isLt
  apply BitVec.eq_of_toNat_eq
  simp only [be24, byteOf, BitVec.toNat_ofNat]
  omega

/-- Big-endian assembly takes back the two bytes of a table length (R36). -/
@[simp] theorem be16_byteOf (v : BitVec 16) : be16 (byteOf v.toNat 1) (byteOf v.toNat 0) = v := by
  have := v.isLt
  apply BitVec.eq_of_toNat_eq
  simp only [be16, byteOf, BitVec.toNat_ofNat]
  omega

/-- The sections of a payload, byte by byte (R51 to R53). -/
theorem MainHeader.bytes_append (h : MainHeader) (l : List Byte) : h.bytes ++ l =
    h.tspec :: byteOf h.off.toNat 2 :: byteOf h.off.toNat 1 :: byteOf h.off.toNat 0 :: h.typ :: h.q :: h.w8 ::
      h.h8 :: l := rfl

theorem RestartHeader.bytes_append (r : RestartHeader) (l : List Byte) :
    r.bytes ++ l = r.b0 :: r.b1 :: r.b2 :: r.b3 :: l := rfl

theorem QuantHeader.bytes_append (k : QuantHeader) (l : List Byte) :
    k.bytes ++ l = k.mbz :: k.prec :: byteOf k.qlen.toNat 1 :: byteOf k.qlen.toNat 0 :: l := rfl

/-- The table section of PKT.Q and PKT.RQ is read back (R53, R54). -/
theorem splitQuant_tables (k : QuantHeader) (tab1 tab2 data : List Byte) (hk : announcesTables k.qlen = true)
    (h1 : tab1.length = 64) (h2 : tab2.length = 64) :
    splitQuant (k.bytes ++ (tab1 ++ (tab2 ++ data))) = some (k, some (tab1, tab2), data) := by
  have hlen : ¬ (tab1 ++ (tab2 ++ data)).length < 128 := by simp only [List.length_append]; omega
  have hdata : (tab1 ++ (tab2 ++ data)).drop 128 = data := by
    rw [← List.append_assoc, List.drop_left' (by simp [h1, h2])]
  simp only [QuantHeader.bytes_append, splitQuant, be16_byteOf, hk, if_true,
    if_neg hlen, hdata, List.take_left' h1, List.drop_left' h1, List.take_left' h2]

/-- The table section of PKT.QX and PKT.RQX, a header alone, is read back (R53). -/
theorem splitQuant_header (k : QuantHeader) (data : List Byte) (hk : announcesTables k.qlen = false) :
    splitQuant (k.bytes ++ data) = some (k, none, data) := by
  simp only [QuantHeader.bytes_append, splitQuant, be16_byteOf, hk,
    Bool.false_eq_true, if_false]

/-- A table section that ends too early gives nothing. -/
theorem splitQuant_eq_none {rest : List Byte} (h : rest.length < 4 ∨
    announcesTables (be16 (payByte rest 2) (payByte rest 3)) = true ∧ rest.length < 132) : splitQuant rest = none := by
  unfold splitQuant
  split
  next mbz prec l1 l0 tail =>
    simp only [List.length_cons] at h
    obtain ⟨ha, hl⟩ := h.resolve_left (by omega)
    have ha : announcesTables (be16 l1 l0) = true := ha
    simp only [ha, if_true, if_pos (show tail.length < 128 by omega)]
  next => rfl

/-- A payload cut short in its own header is PKT.TRUNC (R59, R77). -/
theorem decodePayload_of_isTruncated (pay : List Byte) (m : Bool) (ts : Timestamp) (h : isTruncated pay = true) :
    decodePayload pay m ts = .pktTrunc pay m ts := by
  match pay, h with
  | tspec :: o2 :: o1 :: o0 :: typ :: q :: w8 :: h8 :: rest, h =>
    cases hr : isRestartType typ with
    | true =>
      replace h := (isTruncated_main_iff _ _ _ _ _ _ _ _ _ 4 (by simp [hr])).1 h
      simp only [decodePayload, hr, if_true]
      split
      next r0 r1 r2 r3 rest' =>
        simp only [List.length_cons] at h
        obtain ⟨hq, hshort⟩ := h.resolve_left (by omega)
        have hnone : splitQuant rest' = none :=
          splitQuant_eq_none (hshort.imp (fun h => by omega) fun ⟨ha, hl⟩ => ⟨ha, by omega⟩)
        simp only [hq, if_true, hnone]
      next => rfl
    | false =>
      replace h := (isTruncated_main_iff _ _ _ _ _ _ _ _ _ 0 (by simp [hr])).1 h
      simp only [hr, Bool.false_eq_true, false_and, false_or, Nat.zero_add] at h
      obtain ⟨hq, hshort⟩ := h
      simp only [decodePayload, hr, Bool.false_eq_true, if_false, hq, if_true, splitQuant_eq_none hshort]
  | [], _ | [_], _ | [_, _], _ | [_, _, _], _ | [_, _, _, _], _ | [_, _, _, _, _], _ | [_, _, _, _, _, _], _
  | [_, _, _, _, _, _, _], _ => rfl

/-- A PKT command with a true length decodes to the instruction of its payload (R62, R63). -/
theorem decode_of_pkt {c : Command} (hop : c.operation = .pkt) (hl : c.pay.length = c.len.toNat) :
    decode c = .ok (decodePayload c.pay c.m c.ts) := by
  simp only [decode, hop, hl, if_true]

/-- A PKT instruction whose payload is read back is decoded from its command. -/
theorem decode_encode_of_payload {i : Instr} (hc : Laws.EncodedCommand.Statement i) (hw : i.wellFormed = true)
    (hop : i.operation = .pkt) (hd : decodePayload i.payload (encode i).m (encode i).ts = i) :
    decode (encode i) = .ok i := by
  obtain ⟨hpay, hlen, hop'⟩ := hc hw
  rw [decode_of_pkt (hop'.trans hop) (by rw [hpay, hlen]), hpay, hd]

/-- What the checks of a main header say (R57). -/
theorem MainHeader.selects_iff (h : MainHeader) (rst qh : Bool) :
    h.selects rst qh = true ↔ isRestartType h.typ = rst ∧ hasQuantHeader h.q h.off = qh := by
  simp [MainHeader.selects]

/-- Decoding takes back what encoding writes, for every instruction the command port can carry (R62, R63). -/
theorem decode_encode {i : Instr} (hw : i.wellFormed = true) : decode (encode i) = .ok i := by
  have hw' := hw
  cases i with
  | abort | reset => rfl
  | pktTrunc pay m ts =>
    exact decode_encode_of_payload (Laws.EncodedCommand.pktTrunc pay m ts) hw rfl
      (decodePayload_of_isTruncated pay m ts hw)
  | pktRQ h r k tab1 tab2 data m ts =>
    refine decode_encode_of_payload (Laws.EncodedCommand.pktRQ h r k tab1 tab2 data m ts) hw rfl ?_
    simp only [Instr.wellFormed, tablesWellFormed, Bool.and_eq_true, beq_iff_eq, MainHeader.selects_iff] at hw'
    obtain ⟨⟨⟨⟨hr, hq⟩, hk⟩, h1, h2⟩, -⟩ := hw'
    simp only [Instr.payload, MainHeader.bytes_append, RestartHeader.bytes_append, decodePayload,
      be24_byteOf, hr, hq, if_true, splitQuant_tables _ _ _ _ hk h1 h2]
    rfl
  | pktRQX h r k data m ts =>
    refine decode_encode_of_payload (Laws.EncodedCommand.pktRQX h r k data m ts) hw rfl ?_
    simp only [Instr.wellFormed, Bool.and_eq_true, Bool.not_eq_true', MainHeader.selects_iff] at hw'
    obtain ⟨⟨⟨hr, hq⟩, hk⟩, -⟩ := hw'
    simp only [Instr.payload, MainHeader.bytes_append, RestartHeader.bytes_append, decodePayload,
      be24_byteOf, hr, hq, if_true, splitQuant_header _ _ hk]
    rfl
  | pktQ h k tab1 tab2 data m ts =>
    refine decode_encode_of_payload (Laws.EncodedCommand.pktQ h k tab1 tab2 data m ts) hw rfl ?_
    simp only [Instr.wellFormed, tablesWellFormed, Bool.and_eq_true, beq_iff_eq, MainHeader.selects_iff] at hw'
    obtain ⟨⟨⟨⟨hr, hq⟩, hk⟩, h1, h2⟩, -⟩ := hw'
    simp only [Instr.payload, MainHeader.bytes_append, decodePayload, be24_byteOf, hr, hq, if_true,
      Bool.false_eq_true, if_false, splitQuant_tables _ _ _ _ hk h1 h2]
    rfl
  | pktQX h k data m ts =>
    refine decode_encode_of_payload (Laws.EncodedCommand.pktQX h k data m ts) hw rfl ?_
    simp only [Instr.wellFormed, Bool.and_eq_true, Bool.not_eq_true', MainHeader.selects_iff] at hw'
    obtain ⟨⟨⟨hr, hq⟩, hk⟩, -⟩ := hw'
    simp only [Instr.payload, MainHeader.bytes_append, decodePayload, be24_byteOf, hr, hq, if_true,
      Bool.false_eq_true, if_false, splitQuant_header _ _ hk]
    rfl
  | pktR h r data m ts =>
    refine decode_encode_of_payload (Laws.EncodedCommand.pktR h r data m ts) hw rfl ?_
    simp only [Instr.wellFormed, Bool.and_eq_true, MainHeader.selects_iff] at hw'
    obtain ⟨⟨hr, hq⟩, -⟩ := hw'
    simp only [Instr.payload, MainHeader.bytes_append, RestartHeader.bytes_append, decodePayload,
      be24_byteOf, hr, hq, if_true, Bool.false_eq_true, if_false]
    rfl
  | pktB h data m ts =>
    refine decode_encode_of_payload (Laws.EncodedCommand.pktB h data m ts) hw rfl ?_
    simp only [Instr.wellFormed, Bool.and_eq_true, MainHeader.selects_iff] at hw'
    obtain ⟨⟨hr, hq⟩, -⟩ := hw'
    simp only [Instr.payload, MainHeader.bytes_append, decodePayload, be24_byteOf, hr, hq, Bool.false_eq_true,
      if_false]
    rfl

end Sys2Proof

namespace Sys2Proof.Machine

/-! ### The registers after a packet -/

section PacketRegisters

variable {p : Packet} {s t : State} {r : Result}

/-- The timestamp registers after a packet: they record an emission and stay otherwise (R117). -/
theorem PacketEffect.timestamps (e : PacketEffect p s t r) :
    t.lts = (if p.m = true ∧ corruptedAfter s p = false then p.ts else s.lts) ∧
      t.ltv = if p.m = true ∧ corruptedAfter s p = false then true else s.ltv := by
  rcases e.ending with ⟨hno, -, hlts, hltv, -⟩ | ⟨hm, hc, hlts, hltv, -⟩
  · have hno : ¬ (p.m = true ∧ corruptedAfter s p = false) := fun ⟨hm, hc⟩ => by simp [hm, hc] at hno
    simp only [if_neg hno, hlts, hltv, and_self]
  · simp only [hm, hc, and_self, if_true, hlts, hltv]

/-- The events of a packet: its corruption events, and where it is marked the discard or the timestamp diagnostic
(R113, R116). -/
theorem PacketEffect.events (e : PacketEffect p s t r) : r.events =
    if p.m then
      if corruptedAfter s p then (packetEvents s p).withEvent .frameDiscarded
      else if tsNonincreasing s.ltv s.lts p.ts then (packetEvents s p).withEvent .tsNonincreasing
      else packetEvents s p
    else packetEvents s p := by
  rcases e.ending with ⟨hno, -, -, -, hev⟩ | ⟨hm, hc, -, -, hev, -⟩
  · rw [hev]
    rcases hno with h | h <;> simp only [h, Bool.false_eq_true, if_true, if_false]
  · simp only [hev, hm, hc, Bool.false_eq_true, if_true, if_false]

/-- A packet without a frame leaves the timestamp registers alone (R117). -/
theorem PacketEffect.timestamps_of_noFrame (e : PacketEffect p s t r) (hf : r.frame = none) :
    t.lts = s.lts ∧ t.ltv = s.ltv := by
  rcases e.ending with ⟨-, -, hlts, hltv, -⟩ | ⟨-, -, -, -, -, bytes, -, hsome⟩
  · exact ⟨hlts, hltv⟩
  · rw [hf] at hsome
    cases hsome

/-- An unmarked packet hands over no frame and leaves the control state alone (R103). -/
theorem PacketEffect.noFrame_of_unmarked (e : PacketEffect p s t r) (hm : p.m = false) :
    r.frame = none ∧ t.fsm = s.fsm := by
  rw [e.frame, e.fsm, hm]
  exact ⟨rfl, rfl⟩

end PacketRegisters

/-! ### States with the same registers -/

/-- Two states hold the same in every register; their buffers, ports and earlier results may differ. -/
structure SameRegisters (s s' : State) : Prop where
  wc : s.wc = s'.wc
  efo : s.efo = s'.efo
  cor : s.cor = s'.cor
  lts : s.lts = s'.lts
  ltv : s.ltv = s'.ltv
  fsm : s.fsm = s'.fsm

section SameRegisters

variable {p : Packet} {s s' t t' : State} {r r' : Result}

theorem SameRegisters.corruptedAfter_eq (h : SameRegisters s s') (p : Packet) :
    corruptedAfter s p = corruptedAfter s' p := by
  rw [corruptedAfter, corruptedAfter, h.cor, h.efo]

theorem SameRegisters.packetEvents_eq (h : SameRegisters s s') (p : Packet) : packetEvents s p = packetEvents s' p := by
  rw [packetEvents, packetEvents, h.efo]

/-- States with the same registers have so again after a packet. -/
theorem SameRegisters.packet (h : SameRegisters s s') (e : PacketEffect p s t r) (e' : PacketEffect p s' t' r') :
    SameRegisters t t' where
  wc := e.wc.trans e'.wc.symm
  efo := e.efo.trans e'.efo.symm
  cor := by rw [e.cor, e'.cor, h.corruptedAfter_eq]
  lts := by rw [e.timestamps.1, e'.timestamps.1, h.corruptedAfter_eq, h.lts]
  ltv := by rw [e.timestamps.2, e'.timestamps.2, h.corruptedAfter_eq, h.ltv]
  fsm := by rw [e.fsm, e'.fsm, h.fsm]

/-- In states with the same registers a packet raises the same events. -/
theorem SameRegisters.events_eq (h : SameRegisters s s') (e : PacketEffect p s t r) (e' : PacketEffect p s' t' r') :
    r.events = r'.events := by
  rw [e.events, e'.events, h.corruptedAfter_eq, h.packetEvents_eq, h.lts, h.ltv]

/-- In states with the same registers a packet hands over frames of the same shape, or none. -/
theorem SameRegisters.frame_shape_eq (h : SameRegisters s s') (e : PacketEffect p s t r)
    (e' : PacketEffect p s' t' r') : r.frame.map (fun f => (f.bytes.length, f.length, f.key, f.ts)) =
      r'.frame.map (fun f => (f.bytes.length, f.length, f.key, f.ts)) := by
  rw [e.frame, e'.frame, h.corruptedAfter_eq]
  split
  · simp only [Option.map_some, State.emission_length]
    simp only [State.emission, (h.packet e e').wc]
  · rfl

end SameRegisters

/-! ### The port is no operand -/

/-- States with the same registers, buffer, port and results are equal. -/
theorem SameRegisters.eq {s t : State} (h : SameRegisters s t) (hbuf : s.buf = t.buf) (hport : s.port = t.port)
    (hres : s.results = t.results) : s = t := by
  obtain ⟨hwc, hefo, hcor, hlts, hltv, hfsm⟩ := h
  cases s
  cases t
  simp_all only

/-- A packet does the same whatever waits on the port. -/
theorem PacketEffect.setPort {p : Packet} {s t t' : State} {r r' : Result} {q : List Command}
    (e : PacketEffect p s t r) (e' : PacketEffect p (s.setPort q) t' r') : t' = t.setPort q := by
  have hsame : SameRegisters (s.setPort q) s := ⟨rfl, rfl, rfl, rfl, rfl, rfl⟩
  have ⟨hwc, hefo, hcor, hlts, hltv, hfsm⟩ := hsame.packet e' e
  have hbuf : t'.buf = t.buf := e'.buf.trans e.buf.symm
  have hframe : r'.frame = r.frame := by
    rw [e.frame, e'.frame, hsame.corruptedAfter_eq, State.emission, State.emission, hbuf, hwc]
  have hr : r' = r := by
    cases r
    cases r'
    exact congrArg₂ Result.mk hframe (hsame.events_eq e' e)
  refine SameRegisters.eq ⟨hwc, hefo, hcor, hlts, hltv, hfsm⟩ hbuf e'.port ?_
  rw [e'.results, hr, State.setPort_results, State.setPort_results, e.results]

/-- No operation reads the port: with other commands waiting it does the same (log entry 1). -/
theorem exec_setPort {i : Instr} {s t : State} (q : List Command) (h : exec i s = .next t) :
    exec i (s.setPort q) = .next (t.setPort q) := by
  rcases packetOf_cases i with ⟨p, hp⟩ | ⟨pay, m, ts, rfl⟩ | rfl | rfl
  · obtain ⟨t₁, r, ht, e⟩ := exec_packetEffect hp s
    obtain ⟨t', r', ht', e'⟩ := exec_packetEffect hp (s.setPort q)
    obtain rfl : t₁ = t := Host.Outcome.next.inj (ht.symm.trans h)
    rw [ht', e.setPort e']
  · cases m <;> cases h <;> rfl
  · cases h; rfl
  · cases h; rfl

/-! ### Steps and runs -/

/-- A step takes the first command issued and runs the instruction it decodes to (R42, R43). -/
theorem step_of_decode {s : State} {c : Command} {rest : List Command} {i : Instr} (hp : s.port = c :: rest)
    (hd : decode c = .ok i) : step s = exec i (s.setPort rest) := by
  simp only [step, hp, hd]

/-- Settles O12: the step lemma, the port's update written out. -/
theorem stepRunsTheDecodedInstruction : Obligations.StepRunsTheDecodedInstruction := by
  intro s c rest i hp hd
  exact step_of_decode hp hd

/-- A run goes on from the state its first step answers. -/
theorem run_succ_of_step {s t : State} (n : Nat) (h : step s = .next t) : core.run (n + 1) s = core.run n t := by
  have h : core.step s = .next t := h
  simp only [Host.Core.run, h]

/-- A sequence goes on from the state its first instruction answers. -/
theorem runInstrs_cons_of_exec {i : Instr} {s t : State} (is : List Instr) (h : exec i s = .next t) :
    runInstrs (i :: is) s = runInstrs is t := by
  simp only [runInstrs, h]

/-- Settles O15, by induction on the sequence: a step takes the first command and runs its instruction, which leaves the
other commands on the port as they are. -/
theorem runOfIssuedCommandsIsTheSequence : Obligations.RunOfIssuedCommandsIsTheSequence := by
  intro is rest s hw
  induction is generalizing s with
  | nil => rfl
  | cons i is ih =>
    obtain ⟨hi, his⟩ := List.forall_mem_cons.1 hw
    obtain ⟨t, _, ht, -⟩ := exec_effect i s
    have hexec := exec_setPort (is.map encode ++ rest) ht
    have hstep : step (s.setPort ((i :: is).map encode ++ rest)) = .next (t.setPort (is.map encode ++ rest)) :=
      (step_of_decode rfl (decode_encode hi)).trans hexec
    have hrun : core.run (i :: is).length (s.setPort ((i :: is).map encode ++ rest)) =
        core.run is.length (t.setPort (is.map encode ++ rest)) := run_succ_of_step _ hstep
    have hseq : runInstrs (i :: is) (s.setPort rest) = runInstrs is (t.setPort rest) :=
      runInstrs_cons_of_exec is (exec_setPort rest ht)
    exact hrun.trans ((ih t his).trans hseq.symm)

end Sys2Proof.Machine

/-! ## What a packet leaves unchanged, and what the buffer decides -/

namespace Sys2Proof.Machine

/-- Without tables there is no patch (R96). -/
theorem patchedBuffer_of_noTables {h : Hdr} (hq : h.qt = false) (buf : List Host.Cell) : patchedBuffer h buf = buf := by
  simp [patchedBuffer, hq]

/-- Settles O34: without a patch only the scan copy writes. -/
theorem scanOnlyPacketFrame : Obligations.ScanOnlyPacketFrame := by
  intro i p s hp hq
  obtain ⟨t, r, ht, e⟩ := exec_packetEffect hp s
  refine ⟨t, r, ht, e.results, e.port, fun a ha => State.byte_congr t s a ?_, e.timestamps_of_noFrame,
    e.noFrame_of_unmarked⟩
  rw [scanAddress_eq] at ha
  rw [e.buf, byteAt_packetBuffer, if_neg (fun h => ha ⟨h.1, h.2.1⟩), patchedBuffer_of_noTables hq]

/-- An address outside the four ranges of the patch is not patchable (R94, R95). -/
theorem patchable_eq_false {a : Nat} (hh : ¬ (Config.heightOffset ≤ a ∧ a < Config.heightOffset + 2))
    (hw : ¬ (Config.widthOffset ≤ a ∧ a < Config.widthOffset + 2))
    (h1 : ¬ (Config.qt1Offset ≤ a ∧ a < Config.qt1Offset + 64))
    (h2 : ¬ (Config.qt2Offset ≤ a ∧ a < Config.qt2Offset + 64)) : patchable a = false := by
  simp only [Config.heightOffset, Config.widthOffset, Config.qt1Offset, Config.qt2Offset] at hh hw h1 h2
  simp only [patchable, Bool.or_eq_false_iff, decide_eq_false_iff_not]
  omega

/-- Settles O35: the patch writes patchable addresses only, which its four ranges are. -/
theorem tablePacketFrame : Obligations.TablePacketFrame := by
  intro i p s hwf hp _
  obtain ⟨t, r, ht, e⟩ := exec_packetEffect hp s
  obtain ⟨-, -, -, htab, -⟩ := packetOf_wellFormed i p hwf hp
  refine ⟨t, r, ht, e.results, e.port, fun a ha hh hw h1 h2 => State.byte_congr t s a ?_, e.timestamps_of_noFrame,
    e.noFrame_of_unmarked⟩
  rw [scanAddress_eq] at ha
  rw [e.buf, byteAt_packetBuffer_of_outside _ _ _ _ htab (patchable_eq_false hh hw h1 h2) (by omega)]

/-- Settles O55: a regular form keeps the registers of the two states the same; the other operations read none of the
buffer. -/
theorem bufferContentsDecideNothing : Obligations.BufferContentsDecideNothing := by
  intro i s b
  rcases packetOf_cases i with ⟨p, hp⟩ | ⟨pay, m, ts, rfl⟩ | rfl | rfl
  · obtain ⟨t, r, ht, e⟩ := exec_packetEffect hp s
    obtain ⟨u, q, hu, e'⟩ := exec_packetEffect hp (s.setBuf b)
    have hsame : SameRegisters s (s.setBuf b) := ⟨rfl, rfl, rfl, rfl, rfl, rfl⟩
    have ⟨hwc, hefo, hcor, hlts, hltv, hfsm⟩ := hsame.packet e e'
    exact ⟨t, u, r, q, ht, hu, e.results, e'.results, hwc, hefo, hcor, hlts, hltv, hfsm, hsame.events_eq e e',
      hsame.frame_shape_eq e e'⟩
  · cases m with
    | false =>
      exact ⟨_, _, _, _, runMalformed_unmarked ts s, runMalformed_unmarked ts _, rfl, rfl, rfl, rfl, rfl, rfl, rfl, rfl,
        rfl, rfl⟩
    | true =>
      exact ⟨_, _, _, _, runMalformed_marked ts s, runMalformed_marked ts _, rfl, rfl, rfl, rfl, rfl, rfl, rfl, rfl,
        rfl, rfl⟩
  · exact ⟨_, _, _, _, rfl, rfl, rfl, rfl, rfl, rfl, rfl, rfl, rfl, rfl, rfl, rfl⟩
  · exact ⟨_, _, _, _, rfl, rfl, rfl, rfl, rfl, rfl, rfl, rfl, rfl, rfl, rfl, rfl⟩

end Sys2Proof.Machine

/-! ## Proofs of family 30, encoding: the decoder, the encoder, the form table and the parser -/

namespace Sys2Proof

/-- Settles O2: every section of a payload is read back as the encoder laid it out. -/
theorem decodeOfEncodeIsTheInstruction : Obligations.DecodeOfEncodeIsTheInstruction := by
  intro i hw
  exact decode_encode hw

/-- Settles O4: each branch of the decoder gives a form its predicates, its table lengths and its payload length. -/
theorem decodedInstructionIsWellFormed : Obligations.DecodedInstructionIsWellFormed := by
  intro c i h
  exact wellFormed_of_decode h

/-! ### What the bytes of a payload announce -/

/-- An offset is 0 exactly when its three bytes are. -/
theorem be24_toNat_eq_zero_iff (b0 b1 b2 : Byte) : (be24 b0 b1 b2).toNat = 0 ↔ b0 = 0 ∧ b1 = 0 ∧ b2 = 0 := by
  have h0 := b0.isLt
  have h1 := b1.isLt
  have h2 := b2.isLt
  simp only [be24, BitVec.ofNat_eq_ofNat, BitVec.toNat_ofNat, ← BitVec.toNat_inj]
  omega

/-- A quantization-table header is there exactly when `Q >= 128` and the three offset bytes are 0 (R57). -/
theorem hasQuantHeader_be24_iff (q b0 b1 b2 : Byte) :
    hasQuantHeader q (be24 b0 b1 b2) = true ↔ 128 ≤ q.toNat ∧ b0 = 0 ∧ b1 = 0 ∧ b2 = 0 := by
  rw [hasQuantHeader, decide_eq_true_iff, be24_toNat_eq_zero_iff]

/-- The declared length is 128 exactly when its two bytes are `0x00` and `0x80` (R57). -/
theorem announcesTables_be16_iff (b0 b1 : Byte) : announcesTables (be16 b0 b1) = true ↔ b0 = 0x00 ∧ b1 = 0x80 := by
  have h0 := b0.isLt
  have h1 := b1.isLt
  simp only [announcesTables, decide_eq_true_iff, be16, BitVec.ofNat_eq_ofNat, BitVec.toNat_ofNat, ← BitVec.toNat_inj]
  omega

/-- `RST` of a payload (R57). -/
def payloadRst (pay : List Byte) : Bool := isRestartType (payByte pay 4)

/-- `QH` of a payload (R57). -/
def payloadQh (pay : List Byte) : Bool :=
  hasQuantHeader (payByte pay 5) (be24 (payByte pay 1) (payByte pay 2) (payByte pay 3))

/-- `qlen = 128` for a quantization-table header at `qb` (R57). -/
def payloadQt (pay : List Byte) (qb : Nat) : Bool :=
  announcesTables (be16 (payByte pay (qb + 2)) (payByte pay (qb + 3)))

/-- Where a quantization-table header stands (R53). -/
def quantBase (pay : List Byte) : Nat := if payloadRst pay then 12 else 8

/-- The regular form that the three predicates select (R57). -/
def selectedForm : (rst qh qt : Bool) → Form
  | true, true, true => .restartQuant
  | true, true, false => .restartQuantBad
  | false, true, true => .quant
  | false, true, false => .quantBad
  | true, false, _ => .restart
  | false, false, _ => .base

/-- The regular form the bytes of a payload announce, when they are all there. -/
def announcedForm (pay : List Byte) : Form :=
  selectedForm (payloadRst pay) (payloadQh pay) (payloadQt pay (quantBase pay))

/-- The four length tests of R59. -/
theorem isTruncated_iff (pay : List Byte) : isTruncated pay = true ↔
    pay.length < 8 ∨ (payloadRst pay = true ∧ pay.length < 12) ∨
      (payloadQh pay = true ∧ (pay.length < quantBase pay + 4 ∨
        (payloadQt pay (quantBase pay) = true ∧ pay.length < quantBase pay + 132))) := by
  simp only [isTruncated, payloadRst, payloadQh, payloadQt, quantBase, Bool.or_eq_true, Bool.and_eq_true,
    decide_eq_true_eq]
  tauto

/-! ### A payload as its sections -/

/-- The bytes of an offset read from three bytes are those (R36). -/
theorem byteOf_be24 (b0 b1 b2 : Byte) : byteOf (be24 b0 b1 b2).toNat 2 = b0 ∧ byteOf (be24 b0 b1 b2).toNat 1 = b1 ∧
    byteOf (be24 b0 b1 b2).toNat 0 = b2 := by
  have h0 := b0.isLt
  have h1 := b1.isLt
  have h2 := b2.isLt
  simp only [byteOf, be24, ← BitVec.toNat_inj, BitVec.toNat_ofNat]
  omega

/-- The bytes of a table length read from two bytes are those (R36). -/
theorem byteOf_be16 (b0 b1 : Byte) : byteOf (be16 b0 b1).toNat 1 = b0 ∧ byteOf (be16 b0 b1).toNat 0 = b1 := by
  have h0 := b0.isLt
  have h1 := b1.isLt
  simp only [byteOf, be16, ← BitVec.toNat_inj, BitVec.toNat_ofNat]
  omega

/-- A payload of 8 bytes or more starts with a main header (R51). -/
theorem exists_mainHeader {pay : List Byte} (h : 8 ≤ pay.length) : ∃ (mh : MainHeader) (rest : List Byte),
    pay = mh.bytes ++ rest := by
  match pay, h with
  | tspec :: o2 :: o1 :: o0 :: typ :: q :: w8 :: h8 :: rest, _ =>
    obtain ⟨e2, e1, e0⟩ := byteOf_be24 o2 o1 o0
    exact ⟨⟨tspec, be24 o2 o1 o0, typ, q, w8, h8⟩, rest, by rw [MainHeader.bytes_append, e2, e1, e0]⟩

/-- Four bytes or more start with a restart-marker header (R52). -/
theorem exists_restartHeader {rest : List Byte} (h : 4 ≤ rest.length) : ∃ (r : RestartHeader) (rest' : List Byte),
    rest = r.bytes ++ rest' := by
  match rest, h with
  | b0 :: b1 :: b2 :: b3 :: rest', _ => exact ⟨⟨b0, b1, b2, b3⟩, rest', rfl⟩

/-- Four bytes or more start with a quantization-table header, which announces tables where its length bytes
do (R53). -/
theorem exists_quantHeader {rest : List Byte} (h : 4 ≤ rest.length) : ∃ (k : QuantHeader) (rest' : List Byte),
    rest = k.bytes ++ rest' ∧ announcesTables k.qlen = payloadQt rest 0 := by
  match rest, h with
  | mbz :: prec :: l1 :: l0 :: rest', _ =>
    obtain ⟨e1, e0⟩ := byteOf_be16 l1 l0
    exact ⟨⟨mbz, prec, be16 l1 l0⟩, rest', by rw [QuantHeader.bytes_append, e1, e0], rfl⟩

/-- 128 bytes or more start with two tables of 64 (R54). -/
theorem exists_tables {rest : List Byte} (h : 128 ≤ rest.length) : ∃ tab1 tab2 data : List Byte,
    rest = tab1 ++ (tab2 ++ data) ∧ tab1.length = 64 ∧ tab2.length = 64 := by
  refine ⟨rest.take 64, (rest.drop 64).take 64, (rest.drop 64).drop 64, by simp only [List.take_append_drop], ?_, ?_⟩
  · rw [List.length_take]; omega
  · rw [List.length_take, List.length_drop]; omega

section Sections

variable (h : MainHeader) (r : RestartHeader) (k : QuantHeader) (rest : List Byte)

@[simp] theorem payloadRst_mainHeader : payloadRst (h.bytes ++ rest) = isRestartType h.typ := rfl

@[simp] theorem payloadQh_mainHeader : payloadQh (h.bytes ++ rest) = hasQuantHeader h.q h.off :=
  congrArg (hasQuantHeader h.q) (be24_byteOf h.off)

theorem quantBase_mainHeader : quantBase (h.bytes ++ rest) = if isRestartType h.typ then 12 else 8 := rfl

@[simp] theorem payloadQt_mainHeader (n : Nat) : payloadQt (h.bytes ++ rest) (n + 8) = payloadQt rest n := rfl

@[simp] theorem payloadQt_restartHeader (n : Nat) : payloadQt (r.bytes ++ rest) (n + 4) = payloadQt rest n := rfl

@[simp] theorem payloadQt_quantHeader : payloadQt (k.bytes ++ rest) 0 = announcesTables k.qlen :=
  congrArg announcesTables (be16_byteOf k.qlen)

end Sections

/-- The instruction is laid out as the decoder answers it, with marker `m` and timestamp `ts`: PKT.TRUNC on a payload
cut short, or a regular form with its predicates and its table lengths (R57, R59). The payload may have any length. -/
inductive Layout (m : Bool) (ts : Timestamp) : Instr → Prop
  | truncated {pay : List Byte} (ht : isTruncated pay = true) : Layout m ts (.pktTrunc pay m ts)
  | restartQuant {h : MainHeader} {r : RestartHeader} {k : QuantHeader} {tab1 tab2 data : List Byte}
      (hr : isRestartType h.typ = true) (hq : hasQuantHeader h.q h.off = true) (hk : announcesTables k.qlen = true)
      (h1 : tab1.length = 64) (h2 : tab2.length = 64) : Layout m ts (.pktRQ h r k tab1 tab2 data m ts)
  | restartQuantBad {h : MainHeader} {r : RestartHeader} {k : QuantHeader} {data : List Byte}
      (hr : isRestartType h.typ = true) (hq : hasQuantHeader h.q h.off = true)
      (hk : announcesTables k.qlen = false) : Layout m ts (.pktRQX h r k data m ts)
  | quant {h : MainHeader} {k : QuantHeader} {tab1 tab2 data : List Byte}
      (hr : isRestartType h.typ = false) (hq : hasQuantHeader h.q h.off = true) (hk : announcesTables k.qlen = true)
      (h1 : tab1.length = 64) (h2 : tab2.length = 64) : Layout m ts (.pktQ h k tab1 tab2 data m ts)
  | quantBad {h : MainHeader} {k : QuantHeader} {data : List Byte}
      (hr : isRestartType h.typ = false) (hq : hasQuantHeader h.q h.off = true)
      (hk : announcesTables k.qlen = false) : Layout m ts (.pktQX h k data m ts)
  | restart {h : MainHeader} {r : RestartHeader} {data : List Byte}
      (hr : isRestartType h.typ = true) (hq : hasQuantHeader h.q h.off = false) : Layout m ts (.pktR h r data m ts)
  | base {h : MainHeader} {data : List Byte}
      (hr : isRestartType h.typ = false) (hq : hasQuantHeader h.q h.off = false) : Layout m ts (.pktB h data m ts)

/-- A quantization-table section that does not end too early is a header with its tables, or a header alone that
announces none (R53, R54). -/
theorem quantSection_cases {rest : List Byte} (h4 : 4 ≤ rest.length)
    (h132 : payloadQt rest 0 = true → 132 ≤ rest.length) :
    (∃ (k : QuantHeader) (tab1 tab2 data : List Byte), rest = k.bytes ++ (tab1 ++ (tab2 ++ data)) ∧
      announcesTables k.qlen = true ∧ tab1.length = 64 ∧ tab2.length = 64) ∨
    ∃ (k : QuantHeader) (data : List Byte), rest = k.bytes ++ data ∧ announcesTables k.qlen = false := by
  obtain ⟨k, rest', rfl, hk⟩ := exists_quantHeader h4
  cases ha : announcesTables k.qlen with
  | true =>
    have hlen := h132 (hk.symm.trans ha)
    rw [List.length_append, Laws.QuantHeader.length_bytes] at hlen
    obtain ⟨tab1, tab2, data, rfl, h1, h2⟩ := exists_tables (rest := rest') (by omega)
    exact .inl ⟨k, tab1, tab2, data, rfl, ha, h1, h2⟩
  | false => exact .inr ⟨k, rest', rfl, ha⟩

/-- Every payload is laid out as one of the forms (R62, R81). -/
theorem exists_layout (pay : List Byte) (m : Bool) (ts : Timestamp) : ∃ i, Layout m ts i ∧ i.payload = pay := by
  by_cases ht : isTruncated pay = true
  · exact ⟨_, .truncated ht, rfl⟩
  rw [isTruncated_iff] at ht
  obtain ⟨h, rest, rfl⟩ := exists_mainHeader (pay := pay) (by omega)
  simp only [payloadRst_mainHeader, payloadQh_mainHeader, quantBase_mainHeader, List.length_append,
    Laws.MainHeader.length_bytes, not_or, not_and, not_lt] at ht
  obtain ⟨-, hlenR, hlenQ⟩ := ht
  cases hr : isRestartType h.typ with
  | true =>
    have hlen := hlenR hr
    obtain ⟨r, rest', rfl⟩ := exists_restartHeader (rest := rest) (by omega)
    cases hq : hasQuantHeader h.q h.off with
    | true =>
      obtain ⟨h4, h132⟩ := hlenQ hq
      simp only [hr, if_true, List.length_append, Laws.RestartHeader.length_bytes] at h4 h132
      rcases quantSection_cases (rest := rest') (by omega) (fun hk => by have := h132 hk; omega) with
        ⟨k, tab1, tab2, data, rfl, hk, h1, h2⟩ | ⟨k, data, rfl, hk⟩
      · exact ⟨_, .restartQuant (r := r) hr hq hk h1 h2, rfl⟩
      · exact ⟨_, .restartQuantBad (r := r) hr hq hk, rfl⟩
    | false => exact ⟨_, .restart (r := r) hr hq, rfl⟩
  | false =>
    cases hq : hasQuantHeader h.q h.off with
    | true =>
      obtain ⟨h4, h132⟩ := hlenQ hq
      simp only [hr, Bool.false_eq_true, if_false] at h4 h132
      rcases quantSection_cases (rest := rest) (by omega) (fun hk => by have := h132 hk; omega) with
        ⟨k, tab1, tab2, data, rfl, hk, h1, h2⟩ | ⟨k, data, rfl, hk⟩
      · exact ⟨_, .quant hr hq hk h1 h2, rfl⟩
      · exact ⟨_, .quantBad hr hq hk, rfl⟩
    | false => exact ⟨_, .base hr hq, rfl⟩

/-- The decoder reads a laid-out payload back. -/
theorem decodePayload_payload {m : Bool} {ts : Timestamp} {i : Instr} (hi : Layout m ts i) :
    decodePayload i.payload m ts = i := by
  cases hi with
  | truncated ht => exact decodePayload_of_isTruncated _ m ts ht
  | restartQuant hr hq hk h1 h2 =>
    simp only [Instr.payload, MainHeader.bytes_append, RestartHeader.bytes_append, decodePayload, be24_byteOf, hr, hq,
      if_true, splitQuant_tables _ _ _ _ hk h1 h2]
  | restartQuantBad hr hq hk =>
    simp only [Instr.payload, MainHeader.bytes_append, RestartHeader.bytes_append, decodePayload, be24_byteOf, hr, hq,
      if_true, splitQuant_header _ _ hk]
  | quant hr hq hk h1 h2 =>
    simp only [Instr.payload, MainHeader.bytes_append, decodePayload, be24_byteOf, hr, hq, if_true, Bool.false_eq_true,
      if_false, splitQuant_tables _ _ _ _ hk h1 h2]
  | quantBad hr hq hk =>
    simp only [Instr.payload, MainHeader.bytes_append, decodePayload, be24_byteOf, hr, hq, if_true, Bool.false_eq_true,
      if_false, splitQuant_header _ _ hk]
  | restart hr hq =>
    simp only [Instr.payload, MainHeader.bytes_append, RestartHeader.bytes_append, decodePayload, be24_byteOf, hr, hq,
      if_true, Bool.false_eq_true, if_false]
  | base hr hq =>
    simp only [Instr.payload, MainHeader.bytes_append, decodePayload, be24_byteOf, hr, hq, Bool.false_eq_true, if_false]

/-- What the decoder answers is laid out, and its payload is the one decoded. -/
theorem layout_decodePayload (pay : List Byte) (m : Bool) (ts : Timestamp) :
    Layout m ts (decodePayload pay m ts) ∧ (decodePayload pay m ts).payload = pay := by
  obtain ⟨i, hi, rfl⟩ := exists_layout pay m ts
  rw [decodePayload_payload hi]
  exact ⟨hi, rfl⟩

/-- The command of a laid-out instruction is that of its payload (R60, R63). -/
theorem Layout.encode {m : Bool} {ts : Timestamp} {i : Instr} (hi : Layout m ts i) :
    Sys2Proof.encode i = pktCommand i.payload m ts := by
  cases hi <;> rfl

/-- A laid-out instruction is a PKT. -/
theorem Layout.operation {m : Bool} {ts : Timestamp} {i : Instr} (hi : Layout m ts i) : i.operation = .pkt := by
  cases hi <;> rfl

/-- Encoding what a payload decodes to gives the payload's command back. -/
theorem encode_decodePayload (pay : List Byte) (m : Bool) (ts : Timestamp) :
    encode (decodePayload pay m ts) = pktCommand pay m ts := by
  obtain ⟨hi, hp⟩ := layout_decodePayload pay m ts
  rw [hi.encode, hp]

/-- A PKT command with a true length is the command of its payload (R60, R63). -/
theorem pktCommand_eq_self {c : Command} (hrst : c.rst = false) (hop : c.op = false) (hl : c.pay.length = c.len.toNat) :
    pktCommand c.pay c.m c.ts = c := by
  cases c
  subst hrst hop
  simp only at hl
  rw [pktCommand, hl, BitVec.ofNat_toNat, BitVec.setWidth_eq]

/-- The lines of a PKT command (R63). -/
theorem Command.operation_eq_pkt_iff (c : Command) : c.operation = .pkt ↔ c.rst = false ∧ c.op = false := by
  cases hrst : c.rst <;> cases hop : c.op <;> simp [Command.operation, hrst, hop]

/-- Settles O3: a PKT command that decodes has a true length, and its payload's sections are encoded as they stood. -/
theorem encodeOfDecodeIsTheCommand : Obligations.EncodeOfDecodeIsTheCommand := by
  intro c i hop h
  obtain ⟨hrst, hsel⟩ := c.operation_eq_pkt_iff.1 hop
  by_cases hl : c.pay.length = c.len.toNat
  · rw [decode_of_pkt hop hl] at h
    cases h
    rw [encode_decodePayload, pktCommand_eq_self hrst hsel hl]
  · simp [decode, hop, hl] at h

/-- Settles O6: the three ways the lines can stand; a PKT is decoded from its payload, which encodes to the command. -/
theorem commandLinesSelectTheOperation : Obligations.CommandLinesSelectTheOperation := by
  intro c
  refine ⟨fun hrst => ?_, fun hrst hop => ?_, fun hrst hop hl => ?_⟩
  · simp [decode, Command.operation, hrst]
  · simp [decode, Command.operation, hrst, hop]
  · obtain ⟨hi, -⟩ := layout_decodePayload c.pay c.m c.ts
    exact ⟨_, decode_of_pkt (c.operation_eq_pkt_iff.2 ⟨hrst, hop⟩) hl, hi.operation,
      by rw [encode_decodePayload, pktCommand_eq_self hrst hop hl]⟩

/-- A laid-out instruction whose payload is not cut short has the form that its bytes announce. -/
theorem Layout.form_of_not_truncated {m : Bool} {ts : Timestamp} {i : Instr} (hi : Layout m ts i)
    (ht : isTruncated i.payload = false) : i.form = some (announcedForm i.payload) := by
  cases hi with
  | truncated ht' => exact Bool.noConfusion (ht'.symm.trans ht)
  | restartQuant hr hq hk h1 h2 | restartQuantBad hr hq hk | quant hr hq hk h1 h2 | quantBad hr hq hk =>
    simp [Instr.form, Instr.payload, announcedForm, selectedForm, quantBase_mainHeader, hr, hq, hk]
  | restart hr hq | base hr hq =>
    simp [Instr.form, Instr.payload, announcedForm, selectedForm, hr, hq]

/-- A laid-out instruction is PKT.TRUNC exactly when its payload is cut short: the sections of a regular form are
whole. -/
theorem Layout.form_eq_truncated_iff {m : Bool} {ts : Timestamp} {i : Instr} (hi : Layout m ts i) :
    i.form = some .truncated ↔ isTruncated i.payload = true := by
  cases hi with
  | truncated ht => simp [Instr.form, Instr.payload, ht]
  | restartQuant hr hq hk h1 h2 | quant hr hq hk h1 h2 =>
    simp [Instr.form, Instr.payload, isTruncated_iff, quantBase_mainHeader, hr, hq, h1, h2]
    omega
  | restartQuantBad hr hq hk | quantBad hr hq hk =>
    simp [Instr.form, Instr.payload, isTruncated_iff, quantBase_mainHeader, hr, hq, hk]
    omega
  | restart hr hq =>
    simp [Instr.form, Instr.payload, isTruncated_iff, hr, hq]
    omega
  | base hr hq => simp [Instr.form, Instr.payload, isTruncated_iff, hr, hq]

/-- The form a payload that is not cut short decodes to is the one its bytes announce (R57). -/
theorem form_decodePayload {pay : List Byte} (m : Bool) (ts : Timestamp) (ht : isTruncated pay = false) :
    (decodePayload pay m ts).form = some (announcedForm pay) := by
  obtain ⟨hi, hp⟩ := layout_decodePayload pay m ts
  simpa only [hp] using hi.form_of_not_truncated (by rw [hp, ht])

/-- A payload decodes to PKT.TRUNC exactly when it is cut short (R59, R77). -/
theorem form_decodePayload_eq_truncated_iff (pay : List Byte) (m : Bool) (ts : Timestamp) :
    (decodePayload pay m ts).form = some .truncated ↔ isTruncated pay = true := by
  obtain ⟨hi, hp⟩ := layout_decodePayload pay m ts
  rw [hi.form_eq_truncated_iff, hp]

/-- Settles O7: the decoder answers PKT.TRUNC where `isTruncated` says so, whose tests are these, written over bytes. -/
theorem truncatedExactlyByTheFourLengthTests : Obligations.TruncatedExactlyByTheFourLengthTests := by
  intro pay m ts
  rw [form_decodePayload_eq_truncated_iff, isTruncated_iff]
  simp only [payloadRst, isRestartType, payloadQh, hasQuantHeader_be24_iff, payloadQt, announcesTables_be16_iff,
    quantBase, decide_eq_true_iff, exists_eq_left, and_assoc]

/-! ### The masks of the form table -/

/-- The bytes `b 0` to `b (n - 1)` as one number, the first one most significant (R36). -/
def bigEndian (b : Nat → Byte) (n : Nat) : Nat := (List.range n).foldl (fun acc i => acc * 256 + (b i).toNat) 0

theorem bigEndian_succ (b : Nat → Byte) (n : Nat) : bigEndian b (n + 1) = bigEndian b n * 256 + (b n).toNat := by
  simp only [bigEndian, List.range_succ, List.foldl_append, List.foldl_cons, List.foldl_nil]

/-- A number with one byte more behind it. -/
theorem ofNat_mul_256_add (n a : Nat) (b : Byte) :
    BitVec.ofNat (n + 8) (a * 256 + b.toNat) = BitVec.ofNat n a ++ b := by
  have hb := b.isLt
  have hdiv : (a * 256 + b.toNat) / 2 ^ 8 = a := by omega
  have hmod : (a * 256 + b.toNat) % 2 ^ 8 = b.toNat := by omega
  apply BitVec.eq_of_toNat_eq
  rw [BitVec.toNat_append, ← Nat.shiftLeft_add_eq_or_of_lt hb, Nat.shiftLeft_eq, BitVec.toNat_ofNat, BitVec.toNat_ofNat,
    Nat.pow_add, Nat.mul_comm (2 ^ n), Nat.mod_mul, hdiv, hmod, Nat.add_comm, Nat.mul_comm]

/-- Words of the same two parts are equal exactly when the parts are. -/
theorem append_eq_append_iff {n k : Nat} (x x' : BitVec n) (y y' : BitVec k) :
    x ++ y = x' ++ y' ↔ x = x' ∧ y = y' := by
  refine ⟨fun h => ⟨?_, ?_⟩, fun ⟨hx, hy⟩ => by rw [hx, hy]⟩
  · simpa only [BitVec.extractLsb'_append_eq_left] using congrArg (BitVec.extractLsb' k n) h
  · simpa only [BitVec.extractLsb'_append_eq_right] using congrArg (BitVec.extractLsb' 0 k) h

/-- A mask over whole bytes fits exactly when it fits each of them. -/
theorem bigEndian_and_eq_iff (b mask value : Nat → Byte) (n : Nat) :
    BitVec.ofNat (8 * n) (bigEndian b n) &&& BitVec.ofNat (8 * n) (bigEndian mask n) =
      BitVec.ofNat (8 * n) (bigEndian value n) ↔ ∀ i < n, b i &&& mask i = value i := by
  induction n with
  | zero => simp [bigEndian]
  | succ n ih =>
    rw [Nat.mul_succ]
    simp only [bigEndian_succ, ofNat_mul_256_add, BitVec.and_append, append_eq_append_iff, ih, Nat.forall_lt_succ_right]

/-- The type byte's test: bits 7 and 6 are `01` for 64 to 127 (R65). -/
theorem and_C0_eq_40_iff (b : Byte) : b &&& 0xC0#8 = 0x40#8 ↔ isRestartType b = true := by
  revert b
  decide

/-- The Q byte's test: bit 7 is set from 128 on (R65). -/
theorem and_80_eq_80_iff (b : Byte) : b &&& 0x80#8 = 0x80#8 ↔ 128 ≤ b.toNat := by
  revert b
  decide

/-- A byte's test of all bits is for its value. -/
theorem and_FF_eq_iff (b v : Byte) : b &&& 0xFF#8 = v ↔ b = v := by
  rw [show b &&& 0xFF#8 = b from BitVec.and_allOnes]

/-- A mask of R65 over `W64`, given as its eight bytes. -/
theorem w64_and_eq_iff (pay mask value : List Byte) :
    w64 pay &&& w64 mask = w64 value ↔ ∀ i < 8, payByte pay i &&& payByte mask i = payByte value i :=
  bigEndian_and_eq_iff (payByte pay) (payByte mask) (payByte value) 8

/-- A mask of R65 over `QW32`, given as its four bytes. -/
theorem qw32_and_eq_iff (pay mask value : List Byte) (qb : Nat) :
    qw32 pay qb &&& qw32 mask 0 = qw32 value 0 ↔
      ∀ i < 4, payByte pay (qb + i) &&& payByte mask (0 + i) = payByte value (0 + i) :=
  bigEndian_and_eq_iff (fun i => payByte pay (qb + i)) (fun i => payByte mask (0 + i))
    (fun i => payByte value (0 + i)) 4

/-- `RST` as a mask over `W64` (R65). -/
theorem w64_restart_iff (pay : List Byte) :
    w64 pay &&& 0x00000000C0000000 = 0x0000000040000000 ↔ payloadRst pay = true := by
  refine (w64_and_eq_iff pay [0, 0, 0, 0, 0xC0, 0, 0, 0] [0, 0, 0, 0, 0x40, 0, 0, 0]).trans ?_
  simp only [Nat.forall_lt_succ_right]
  simp [payloadRst, payByte, and_C0_eq_40_iff]

/-- `QH` as a mask over `W64` (R65). -/
theorem w64_quant_iff (pay : List Byte) :
    w64 pay &&& 0x00FFFFFF00800000 = 0x0000000000800000 ↔ payloadQh pay = true := by
  refine (w64_and_eq_iff pay [0, 0xFF, 0xFF, 0xFF, 0, 0x80, 0, 0] [0, 0, 0, 0, 0, 0x80, 0, 0]).trans ?_
  simp only [Nat.forall_lt_succ_right, payloadQh, hasQuantHeader_be24_iff]
  simp [payByte, and_80_eq_80_iff, and_FF_eq_iff]
  tauto

/-- `RST` and `QH` as one mask over `W64` (R65). -/
theorem w64_restartQuant_iff (pay : List Byte) :
    w64 pay &&& 0x00FFFFFFC0800000 = 0x0000000040800000 ↔ payloadRst pay = true ∧ payloadQh pay = true := by
  refine (w64_and_eq_iff pay [0, 0xFF, 0xFF, 0xFF, 0xC0, 0x80, 0, 0] [0, 0, 0, 0, 0x40, 0x80, 0, 0]).trans ?_
  simp only [Nat.forall_lt_succ_right, payloadRst, payloadQh, hasQuantHeader_be24_iff]
  simp [payByte, and_C0_eq_40_iff, and_80_eq_80_iff, and_FF_eq_iff]
  tauto

/-- `qlen = 128` as a mask over `QW32` (R65). -/
theorem qw32_tables_iff (pay : List Byte) (qb : Nat) :
    qw32 pay qb &&& 0x0000FFFF = 0x00000080 ↔ payloadQt pay qb = true := by
  refine (qw32_and_eq_iff pay [0, 0, 0xFF, 0xFF] [0, 0, 0, 0x80] qb).trans ?_
  simp only [Nat.forall_lt_succ_right, payloadQt, announcesTables_be16_iff]
  simp [payByte, and_FF_eq_iff]

/-- The last row's mask fits every payload (R65). -/
theorem w64_base_iff (pay : List Byte) : w64 pay &&& 0x0000000000000000 = 0x0000000000000000 ↔ True :=
  iff_true_intro BitVec.and_zero

/-- The first row that fits is that of the form the bytes announce (R65, R57). -/
theorem tableForm_eq (pay : List Byte) : tableForm pay = some (announcedForm pay) := by
  simp only [tableForm, formRows, List.find?, FormRow.fits, w64_restart_iff, w64_quant_iff, w64_restartQuant_iff,
    w64_base_iff, qw32_tables_iff, announcedForm, quantBase, Bool.decide_and, Bool.decide_eq_true, decide_true]
  cases payloadRst pay with
  | true =>
    rw [if_pos rfl]
    cases payloadQh pay <;> cases payloadQt pay 12 <;> rfl
  | false =>
    rw [if_neg Bool.false_ne_true]
    cases payloadQh pay <;> cases payloadQt pay 8 <;> rfl

/-- Settles O11: both select by the three predicates, the table by masks and the decoder by its branches. -/
theorem tableMasksSelectTheDecodedForm : Obligations.TableMasksSelectTheDecodedForm := by
  intro pay m ts ht
  rw [form_decodePayload m ts ht, tableForm_eq]

/-! ### The parser -/

/-- A payload cut short is Malformed (R70, R77). -/
theorem parse_of_isTruncated {pay : List Byte} (ht : isTruncated pay = true) : parse pay = none := by
  rw [isTruncated_iff] at ht
  unfold quantBase payloadRst payloadQh payloadQt at ht
  rcases ht with h8 | ⟨hr, h12⟩ | ⟨hq, h4 | ⟨hk, h132⟩⟩
  · simp [parse, h8]
  · simp [parse, hr, h12]
  · simp [parse, hq, h4]
  · simp [parse, hq, hk, h132]

/-- The parser's record of a laid-out payload is the one its form gives the engine (R70 to R77). -/
theorem Layout.parse_payload {m : Bool} {ts : Timestamp} {i : Instr} (hi : Layout m ts i) :
    parse i.payload = (Machine.packetOf i).map Packet.hdr := by
  cases hi with
  | truncated ht => exact parse_of_isTruncated ht
  | restartQuant hr hq hk h1 h2 =>
    simp [Instr.payload, MainHeader.bytes_append, RestartHeader.bytes_append, QuantHeader.bytes_append, parse, payByte,
      hr, hq, hk, h1, h2, Machine.packetOf, Machine.tablesHdr, Machine.dimension, Machine.headerLength]
    omega
  | restartQuantBad hr hq hk =>
    simp [Instr.payload, MainHeader.bytes_append, RestartHeader.bytes_append, QuantHeader.bytes_append, parse, payByte,
      hr, hq, hk, Machine.packetOf, Machine.badLengthHdr, Machine.dimension, Machine.headerLength]
    exact decide_eq_false (by omega)
  | quant hr hq hk h1 h2 =>
    simp [Instr.payload, MainHeader.bytes_append, QuantHeader.bytes_append, parse, payByte,
      hr, hq, hk, h1, h2, Machine.packetOf, Machine.tablesHdr, Machine.dimension, Machine.headerLength]
    omega
  | quantBad hr hq hk =>
    simp [Instr.payload, MainHeader.bytes_append, QuantHeader.bytes_append, parse, payByte,
      hr, hq, hk, Machine.packetOf, Machine.badLengthHdr, Machine.dimension, Machine.headerLength]
  | restart hr hq =>
    simp [Instr.payload, MainHeader.bytes_append, RestartHeader.bytes_append, parse, payByte,
      hr, hq, Machine.packetOf, Machine.plainHdr, Machine.dimension, Machine.headerLength]
    exact decide_eq_false (by omega)
  | base hr hq =>
    simp [Instr.payload, MainHeader.bytes_append, parse, payByte,
      hr, hq, Machine.packetOf, Machine.plainHdr, Machine.dimension, Machine.headerLength]

/-- A laid-out payload is its header and then the scan data (R55, R97). -/
theorem Layout.length_payload {m : Bool} {ts : Timestamp} {i : Instr} {p : Packet} (hi : Layout m ts i)
    (hp : Machine.packetOf i = some p) : i.payload.length = p.hdr.hlen + p.data.length := by
  cases hi with
  | truncated => cases hp
  | restartQuant _ _ _ h1 h2 | quant _ _ _ h1 h2 =>
    cases hp
    simp [Instr.payload, Machine.tablesHdr, Machine.headerLength, h1, h2]
    omega
  | restartQuantBad | quantBad =>
    cases hp
    simp [Instr.payload, Machine.badLengthHdr, Machine.headerLength]
    omega
  | restart =>
    cases hp
    simp [Instr.payload, Machine.plainHdr, Machine.headerLength]
    omega
  | base =>
    cases hp
    simp [Instr.payload, Machine.plainHdr, Machine.headerLength]

/-- Every form's record has the header length of R58's formula. -/
theorem hlen_of_packetOf {i : Instr} {p : Packet} (hp : Machine.packetOf i = some p) :
    p.hdr.hlen = Machine.headerLength p.hdr.rst p.hdr.qh p.hdr.qt := by
  cases i <;> cases hp <;> rfl

/-- R58's table: the header length, and `QH` at 12, tell the form. -/
theorem form_of_packetOf {i : Instr} {p : Packet} (hp : Machine.packetOf i = some p) :
    i.form = some (if p.hdr.hlen = 8 then .base
      else if p.hdr.hlen = 12 then (if p.hdr.qh then .quantBad else .restart)
      else if p.hdr.hlen = 16 then .restartQuantBad
      else if p.hdr.hlen = 140 then .quant else .restartQuant) := by
  cases i <;> cases hp <;> rfl

/-- A payload that parses decodes to a regular form with the parser's record (R70). -/
theorem packetOf_decodePayload {pay : List Byte} {h : Hdr} (m : Bool) (ts : Timestamp) (hp : parse pay = some h) :
    ∃ p, Machine.packetOf (decodePayload pay m ts) = some p ∧ p.hdr = h := by
  obtain ⟨hi, hpay⟩ := layout_decodePayload pay m ts
  rw [← hpay, hi.parse_payload] at hp
  simpa using hp

/-- Settles O9: the record is that of the form the payload decodes to, whose length is the formula's. -/
theorem headerLengthFormula : Obligations.HeaderLengthFormula := by
  intro pay h hp
  obtain ⟨p, hpkt, rfl⟩ := packetOf_decodePayload false 0 hp
  obtain ⟨hi, hpay⟩ := layout_decodePayload pay false 0
  have hlen := hlen_of_packetOf hpkt
  have hpos : 8 ≤ p.hdr.hlen := by rw [hlen, Machine.headerLength]; omega
  have hle : p.hdr.hlen ≤ pay.length := by
    rw [← hpay, hi.length_payload hpkt]
    exact Nat.le_add_right _ _
  refine ⟨hlen, hpos, hle, fun m ts => ?_⟩
  obtain ⟨q, hq, hhdr⟩ := packetOf_decodePayload m ts hp
  rw [form_of_packetOf hq, hhdr]

end Sys2Proof

/-! ## What decides an operation, and a FRAME in pieces -/

namespace Sys2Proof.Machine

/-! ### The ignored fields -/

/-- The two records agree on all that the engine reads of a header (R61). -/
structure SameForEngine (h h' : Hdr) : Prop where
  off : h.off = h'.off
  qh : h.qh = h'.qh
  qt : h.qt = h'.qt
  patch : h.qt = true → h.width = h'.width ∧ h.height = h'.height ∧ h.tab1 = h'.tab1 ∧ h.tab2 = h'.tab2

/-- The patch reads the dimensions and the tables, and only where there are tables (R94, R95). -/
theorem SameForEngine.patchedBuffer_eq {h h' : Hdr} (e : SameForEngine h h') : patchedBuffer h = patchedBuffer h' := by
  funext buf
  cases hq : h.qt with
  | true =>
    obtain ⟨hw, hh, h1, h2⟩ := e.patch hq
    rw [patchedBuffer, patchedBuffer, ← e.qt, hw, hh, h1, h2]
  | false => rw [patchedBuffer_of_noTables hq, patchedBuffer_of_noTables (e.qt.symm.trans hq)]

/-- Steps 2 to 5 read nothing else of a header. -/
theorem SameForEngine.packetBody_eq {h h' : Hdr} (e : SameForEngine h h') : packetBody h = packetBody h' := by
  funext data w
  have hbad : badTableLength h = badTableLength h' := by rw [badTableLength, badTableLength, e.qh, e.qt]
  have haddr : scanAddress h = scanAddress h' := by rw [scanAddress, scanAddress, e.off]
  simp only [packetBody, advance, overrunCheck, overruns, storePacket, packetBuffer, tableLengthCheck, offsetCheck,
    e.off, hbad, haddr, e.patchedBuffer_eq]

/-- Settles O57: both packets take the same steps, whose only reads of the header are those that agree. -/
theorem ignoredFieldsDecideNothing : Obligations.IgnoredFieldsDecideNothing := by
  intro i j p q s hp hq hoff hqh hqt hpatch hdata hm hts
  have e : SameForEngine p.hdr q.hdr := ⟨hoff, hqh, hqt, hpatch⟩
  obtain ⟨t, r, ht, -⟩ := exec_packetEffect hp s
  refine ⟨t, ht, ?_⟩
  rw [exec_of_packetOf i p s hp] at ht
  rw [exec_of_packetOf j q s hq, ← ht, runPacket, runPacket, e.packetBody_eq, hdata, hm, hts]

/-! ### The packets of a FRAME -/

/-- The header record of a FRAME's first packet (R64). -/
def frameHdr (h : MainHeader) (tabs : Option (QuantHeader × List Byte × List Byte)) : Hdr :=
  match tabs with
  | some (k, tab1, tab2) => tablesHdr h (isRestartType h.typ) k tab1 tab2
  | none => plainHdr h (isRestartType h.typ)

section FramePackets

variable (h : MainHeader) (r : RestartHeader) (tabs : Option (QuantHeader × List Byte × List Byte)) (ts : Timestamp)

theorem frameHdr_off : (frameHdr h tabs).off = h.off := by
  unfold frameHdr
  split <;> rfl

theorem badTableLength_frameHdr : badTableLength (frameHdr h tabs) = false := by
  unfold frameHdr
  split <;> rfl

theorem packetOf_frameFirst (data : List Byte) (m : Bool) :
    packetOf (frameFirst h r tabs data m ts) = some ⟨frameHdr h tabs, data, m, ts⟩ := by
  cases hr : isRestartType h.typ <;> rcases tabs with _ | ⟨k, tab1, tab2⟩ <;>
    simp only [frameFirst, frameHdr, hr, packetOf]

theorem packetOf_frameLater (off : Nat) (data : List Byte) (m : Bool) : packetOf (frameLater h r off data m ts) =
    some ⟨plainHdr { h with off := BitVec.ofNat 24 off } (isRestartType h.typ), data, m, ts⟩ := by
  cases hr : isRestartType h.typ <;> simp only [frameLater, hr, packetOf, if_true, Bool.false_eq_true, if_false]

variable {h r tabs ts}

/-- A FRAME's first packet is well-formed with less scan data too. -/
theorem wellFormed_frameFirst_of_le {data data' : List Byte} {m : Bool} (m' : Bool)
    (hw : (frameFirst h r tabs data m ts).wellFormed = true) (hle : data'.length ≤ data.length) :
    (frameFirst h r tabs data' m' ts).wellFormed = true := by
  cases hr : isRestartType h.typ <;> rcases tabs with _ | ⟨k, tab1, tab2⟩ <;>
    simp only [frameFirst, hr, Instr.wellFormed, fitsPayload, Bool.and_eq_true, decide_eq_true_eq] at hw ⊢ <;>
    exact ⟨hw.1, by omega⟩

/-- A FRAME's first packet carries its header, of 8 bytes or 12 at the least, and its scan data. -/
theorem length_le_of_wellFormed_frameFirst {data : List Byte} {m : Bool}
    (hw : (frameFirst h r tabs data m ts).wellFormed = true) :
    headerLength (isRestartType h.typ) false false + data.length ≤ 65535 := by
  cases hr : isRestartType h.typ <;> rcases tabs with _ | ⟨k, tab1, tab2⟩ <;>
    simp only [frameFirst, hr, Instr.wellFormed, fitsPayload, Bool.and_eq_true, decide_eq_true_eq] at hw <;>
    simp only [headerLength, Bool.toNat_true, Bool.toNat_false] <;> omega

/-- A later packet of a FRAME is well-formed: at an offset other than 0 no `Q` announces tables (R57). -/
theorem wellFormed_frameLater {off : Nat} {data : List Byte} (m : Bool) (hpos : 0 < off) (hoff : off < 16777216)
    (hl : headerLength (isRestartType h.typ) false false + data.length ≤ 65535) :
    (frameLater h r off data m ts).wellFormed = true := by
  have hq : hasQuantHeader h.q (BitVec.ofNat 24 off) = false := by
    simp only [hasQuantHeader, BitVec.toNat_ofNat, decide_eq_false_iff_not]
    omega
  cases hr : isRestartType h.typ <;>
    simp [frameLater, hr, Instr.wellFormed, MainHeader.selects, hq, fitsPayload] <;>
    simpa [hr, headerLength] using hl

/-- The packets of a FRAME after the first are well-formed: the pieces before each are not empty, and all fit one
payload. -/
theorem wellFormed_frameRest {off : Nat} {pieces : List (List Byte)} (hpos : 0 < off) (hne : ∀ d ∈ pieces, d ≠ [])
    (hl : headerLength (isRestartType h.typ) false false + (off + pieces.flatten.length) ≤ 65535) :
    ∀ i ∈ frameRest h r ts off pieces, i.wellFormed = true := by
  induction pieces generalizing off with
  | nil => exact fun i hi => absurd hi List.not_mem_nil
  | cons d ds ih =>
    rw [List.flatten_cons, List.length_append] at hl
    cases ds with
    | nil =>
      intro i hi
      rw [List.mem_singleton.1 hi]
      exact wellFormed_frameLater true hpos (by omega) (by omega)
    | cons e ds =>
      have hrest := ih (off := off + d.length) (by omega) (fun x hx => hne x (List.mem_cons_of_mem d hx)) (by omega)
      exact List.forall_mem_cons.2 ⟨wellFormed_frameLater false hpos (by omega) (by omega), hrest⟩

/-- Every packet of a FRAME is well-formed when the single packet with all its scan data is (R64). -/
theorem wellFormed_frameOps {pieces : List (List Byte)} (hne : ∀ d ∈ pieces, d ≠ [])
    (hw : (frameFirst h r tabs pieces.flatten true ts).wellFormed = true) :
    ∀ i ∈ frameOps h r tabs ts pieces, i.wellFormed = true := by
  have hl := length_le_of_wellFormed_frameFirst hw
  match pieces with
  | [] => exact fun i hi => absurd hi List.not_mem_nil
  | [d] =>
    intro i hi
    rw [List.mem_singleton.1 hi]
    exact wellFormed_frameFirst_of_le true hw (by simp)
  | d :: e :: ds =>
    rw [List.flatten_cons, List.length_append] at hl
    have hfirst := wellFormed_frameFirst_of_le (data' := d) false hw (by simp)
    have hd : 0 < d.length := List.length_pos_iff.2 (hne d List.mem_cons_self)
    exact List.forall_mem_cons.2
      ⟨hfirst, wellFormed_frameRest hd (fun x hx => hne x (List.mem_cons_of_mem d hx)) (by omega)⟩

end FramePackets

/-! ### The frame that a run of contiguous packets emits -/

/-- A frame with the header region of a buffer and the given scan data (R111, R112). -/
def frameOf (b : List Host.Cell) (scan : List Byte) (ts : Timestamp) : Frame :=
  ⟨(List.range' 0 623).map (Memory.byteAt b) ++ scan, BitVec.ofNat 25 (623 + scan.length), true, ts⟩

/-- Of the buffer a frame shows the header region only. -/
theorem frameOf_congr {b b' : List Host.Cell} (h : ∀ a, a < 623 → Memory.byteAt b a = Memory.byteAt b' a) :
    frameOf b = frameOf b' := by
  have hmap : (List.range' 0 623).map (Memory.byteAt b) = (List.range' 0 623).map (Memory.byteAt b') :=
    List.map_congr_left fun a ha => h a (by simpa using ha)
  funext scan ts
  rw [frameOf, frameOf, hmap]

/-- What a boundary emits when the cursor stands behind the scan data. -/
theorem emission_eq_frameOf {t : State} {scan : List Byte} (ts : Timestamp) (hwc : t.wc.toNat = 623 + scan.length)
    (hcap : 623 + scan.length ≤ Config.bufCap) (hdata : ∀ k (h : k < scan.length), t.byte (623 + k) = some scan[k]) :
    t.emission ts = frameOf t.buf scan ts := by
  have hscan : (List.range' 623 scan.length).map (Memory.byteAt t.buf) = scan := by
    refine List.ext_getElem (by simp) fun k _ hk => ?_
    rw [List.getElem_map, List.getElem_range', Nat.one_mul, ← Option.some_inj, ← hdata k hk,
      State.byte_of_lt _ _ (by omega)]
  have hbytes : (List.range' 0 (623 + scan.length)).map (Memory.byteAt t.buf) =
      (List.range' 0 623).map (Memory.byteAt t.buf) ++ scan := by
    rw [← List.range'_append_1, List.map_append, Nat.zero_add, hscan]
  have hlen : BitVec.ofNat 25 (623 + scan.length) = t.wc := by rw [← hwc, BitVec.ofNat_toNat, BitVec.setWidth_eq]
  rw [State.emission, frameOf, hwc, hbytes, hlen]

/-- A well-formed packet that goes on with the frame that history `g` tells of: it comes where the scan data ends, fits
the buffer, and nothing corrupts the frame (R92, R93, R99). -/
structure Continues (g : History) (i : Instr) (p : Packet) (s : State) : Prop where
  wellFormed : i.wellFormed = true
  packet : packetOf i = some p
  clean : s.cor = false
  tracked : ScanTracked s g
  off : p.hdr.off.toNat = g.scan.length
  tableLength : badTableLength p.hdr = false
  fits : 623 + g.scan.length + p.data.length ≤ Config.bufCap

section Continues

variable {g : History} {i : Instr} {p : Packet} {s t : State} {r : Result}

theorem Continues.corruptedAfter_eq (c : Continues g i p s) : corruptedAfter s p = false := by
  obtain ⟨hefo, -⟩ := c.tracked c.clean
  exact (corruptedAfter_eq_false_iff s p).2 ⟨c.clean, c.off.trans hefo.symm, c.tableLength, by rw [c.off]; exact c.fits⟩

/-- After a packet the header region is the one before, patched. -/
theorem PacketEffect.header (e : PacketEffect p s t r) {a : Nat} (ha : a < 623) :
    Memory.byteAt t.buf a = Memory.byteAt (patchedBuffer p.hdr s.buf) a := by
  rw [e.buf, byteAt_packetBuffer_header _ _ _ ha]

/-- Without the marker the frame goes on, with this packet's scan data behind the rest (R26). -/
theorem Continues.exec_unmarked (c : Continues g i p s) (hm : p.m = false) : ∃ t, exec i s = .next t ∧ t.cor = false ∧
    ScanTracked t ⟨g.scan ++ p.data, true⟩ ∧
    ∀ a, a < 623 → Memory.byteAt t.buf a = Memory.byteAt (patchedBuffer p.hdr s.buf) a := by
  obtain ⟨t, r, ht, e⟩ := exec_packetEffect c.packet s
  exact ⟨t, ht, by rw [e.cor, hm]; exact c.corruptedAfter_eq, e.scanTracked c.wellFormed c.packet hm c.tracked,
    fun _ => e.header⟩

/-- With the marker the frame is emitted: the header region as patched, and all the scan data (R111). -/
theorem Continues.exec_marked (c : Continues g i p s) (hm : p.m = true) : ∃ t, exec i s = .next t ∧
    lastFrame t = some (frameOf (patchedBuffer p.hdr s.buf) (g.scan ++ p.data) p.ts) := by
  obtain ⟨t, r, ht, e⟩ := exec_packetEffect c.packet s
  obtain ⟨hstart, hfits, hdata⟩ := e.scan c.wellFormed c.packet c.corruptedAfter_eq c.tracked
  have hwc : t.wc.toNat = 623 + (g.scan ++ p.data).length := by
    rw [e.wc_toNat (data_length_le c.wellFormed c.packet), hstart, List.length_append, Nat.add_assoc]
  refine ⟨t, ht, ?_⟩
  rw [lastFrame_of_results e.results, e.frame, if_pos ⟨hm, c.corruptedAfter_eq⟩,
    emission_eq_frameOf p.ts hwc hfits hdata, frameOf_congr fun _ => e.header]

end Continues

/-- A later packet of a FRAME goes on with it. -/
theorem continues_frameLater {h : MainHeader} {r : RestartHeader} {ts : Timestamp} {g : History} {data : List Byte}
    {m : Bool} {s : State} (hw : (frameLater h r g.scan.length data m ts).wellFormed = true) (hc : s.cor = false)
    (hg : ScanTracked s g) (hl : g.scan.length + data.length ≤ 65535) :
    Continues g (frameLater h r g.scan.length data m ts)
      ⟨plainHdr { h with off := BitVec.ofNat 24 g.scan.length } (isRestartType h.typ), data, m, ts⟩ s where
  wellFormed := hw
  packet := packetOf_frameLater h r ts _ data m
  clean := hc
  tracked := hg
  off := by simp only [plainHdr, BitVec.toNat_ofNat]; omega
  tableLength := rfl
  fits := by have := bufCap_ge; simp only; omega

/-- The first packet of a FRAME goes on with the empty one. -/
theorem continues_frameFirst {h : MainHeader} {r : RestartHeader}
    {tabs : Option (QuantHeader × List Byte × List Byte)} {ts : Timestamp} {data : List Byte} {m : Bool} {s : State}
    (hw : (frameFirst h r tabs data m ts).wellFormed = true) (hs : Clean s) (hoff : h.off = 0) :
    Continues ⟨[], false⟩ (frameFirst h r tabs data m ts) ⟨frameHdr h tabs, data, m, ts⟩ s where
  wellFormed := hw
  packet := packetOf_frameFirst h r tabs ts data m
  clean := hs.2
  tracked := scanTracked_of_clean hs
  off := by rw [frameHdr_off, hoff]; rfl
  tableLength := badTableLength_frameHdr h tabs
  fits := by
    have := bufCap_ge
    have := length_le_of_wellFormed_frameFirst hw
    simp only [List.length_nil]
    omega

/-- The rest of a FRAME, on a block that holds the scan data before it, emits the header region as it stands and all the
scan data; by induction on the pieces. -/
theorem runInstrs_frameRest {h : MainHeader} {r : RestartHeader} {ts : Timestamp} {pieces : List (List Byte)}
    {g : History} {s : State} (hne : pieces ≠ []) (hw : ∀ i ∈ frameRest h r ts g.scan.length pieces, i.wellFormed = true)
    (hc : s.cor = false) (hg : ScanTracked s g) (hl : g.scan.length + pieces.flatten.length ≤ 65535) :
    ∃ t, runInstrs (frameRest h r ts g.scan.length pieces) s = .next t ∧
      lastFrame t = some (frameOf s.buf (g.scan ++ pieces.flatten) ts) := by
  induction pieces generalizing g s with
  | nil => exact absurd rfl hne
  | cons d ds ih =>
    rw [List.flatten_cons, List.length_append] at hl
    cases ds with
    | nil =>
      have c := continues_frameLater (hw _ List.mem_cons_self) hc hg (by omega)
      obtain ⟨t, ht, hf⟩ := c.exec_marked rfl
      refine ⟨t, runInstrs_cons_of_exec [] ht, ?_⟩
      rw [hf, patchedBuffer_of_noTables rfl, List.flatten_cons, List.flatten_nil, List.append_nil]
    | cons e ds =>
      obtain ⟨hwd, hwds⟩ := List.forall_mem_cons.1 hw
      have c := continues_frameLater hwd hc hg (by omega)
      obtain ⟨u, hu, huc, hug, hhead⟩ := c.exec_unmarked rfl
      rw [patchedBuffer_of_noTables rfl] at hhead
      rw [← List.length_append] at hwds
      obtain ⟨t, ht, hf⟩ := ih (g := ⟨g.scan ++ d, true⟩) (List.cons_ne_nil e ds) hwds huc hug
        (by rw [List.length_append]; omega)
      rw [List.length_append] at ht
      refine ⟨t, (runInstrs_cons_of_exec _ hu).trans ht, ?_⟩
      rw [hf, frameOf_congr hhead, List.append_assoc, ← List.flatten_cons]

/-- A FRAME in pieces emits the header region as its first packet patches it, and all the scan data. -/
theorem runInstrs_frameOps {h : MainHeader} {r : RestartHeader} {tabs : Option (QuantHeader × List Byte × List Byte)}
    {ts : Timestamp} {pieces : List (List Byte)} {s : State} (hs : Clean s) (hoff : h.off = 0) (hne : pieces ≠ [])
    (hw : ∀ i ∈ frameOps h r tabs ts pieces, i.wellFormed = true) (hl : pieces.flatten.length ≤ 65535) :
    ∃ t, runInstrs (frameOps h r tabs ts pieces) s = .next t ∧
      lastFrame t = some (frameOf (patchedBuffer (frameHdr h tabs) s.buf) pieces.flatten ts) := by
  match pieces with
  | [] => exact absurd rfl hne
  | [d] =>
    obtain ⟨t, ht, hf⟩ := (continues_frameFirst (hw _ List.mem_cons_self) hs hoff).exec_marked rfl
    refine ⟨t, runInstrs_cons_of_exec [] ht, ?_⟩
    rw [hf, List.flatten_cons, List.flatten_nil, List.append_nil, List.nil_append]
  | d :: e :: ds =>
    obtain ⟨hwd, hwds⟩ := List.forall_mem_cons.1 hw
    obtain ⟨u, hu, huc, hug, hhead⟩ := (continues_frameFirst hwd hs hoff).exec_unmarked rfl
    rw [List.flatten_cons, List.length_append] at hl
    obtain ⟨t, ht, hf⟩ := runInstrs_frameRest (List.cons_ne_nil e ds) hwds huc hug hl
    refine ⟨t, (runInstrs_cons_of_exec _ hu).trans ht, ?_⟩
    rw [hf, frameOf_congr hhead, List.nil_append, ← List.flatten_cons]

/-- Settles O60: the run and the single packet emit the same header region and the same scan data. -/
theorem fragmentedFrameEqualsTheWhole : Obligations.FragmentedFrameEqualsTheWhole := by
  intro h r tabs ts pieces s hs hoff hne hpieces hw
  have hws := wellFormed_frameOps hpieces hw
  have hl := length_le_of_wellFormed_frameFirst hw
  obtain ⟨t, ht, hf⟩ := runInstrs_frameOps hs hoff hne hws (by omega)
  obtain ⟨u, hu, hf'⟩ := (continues_frameFirst hw hs hoff).exec_marked rfl
  exact ⟨hws, t, u, _, ht, hu, hf, hf'⟩

end Sys2Proof.Machine

/-! ## Proofs of family 40, header parser: the decoder against the parser, and one unmarked packet -/

namespace Sys2Proof

/-! ### Every payload is one form -/

/-- A laid-out instruction has one of the seven forms (R57). -/
theorem Layout.exists_form {m : Bool} {ts : Timestamp} {i : Instr} (hi : Layout m ts i) : ∃ f, i.form = some f := by
  cases hi <;> exact ⟨_, rfl⟩

/-- Instructions that the command port can carry are told apart by their commands (R62, R63). -/
theorem encode_inj_of_wellFormed {i j : Instr} (hi : i.wellFormed = true) (hj : j.wellFormed = true)
    (h : encode i = encode j) : i = j :=
  Decoded.ok.inj ((decode_encode hi).symm.trans ((congrArg decode h).trans (decode_encode hj)))

/-- Settles O5: the decoded instruction is one, and encoding is injective on the well-formed. -/
theorem everyPayloadIsExactlyOneForm : Obligations.EveryPayloadIsExactlyOneForm := by
  intro pay m ts hl
  have hw := wellFormed_decodePayload pay m ts hl
  have henc := encode_decodePayload pay m ts
  obtain ⟨hi, -⟩ := layout_decodePayload pay m ts
  exact ⟨_, ⟨hw, henc, hi.exists_form⟩, fun j hj h => encode_inj_of_wellFormed hj hw (h.trans henc.symm)⟩

/-! ### The parser and the decoder -/

/-- The scan data of a form ends its payload (R50, R55). -/
theorem data_suffix_payload {i : Instr} {p : Packet} (hp : Machine.packetOf i = some p) : p.data <:+ i.payload := by
  cases i with
  | pktTrunc | abort | reset => cases hp
  | pktRQ h r k tab1 tab2 data =>
    cases hp
    exact ⟨h.bytes ++ r.bytes ++ k.bytes ++ tab1 ++ tab2, by simp only [Instr.payload, List.append_assoc]⟩
  | pktRQX h r k data =>
    cases hp
    exact ⟨h.bytes ++ r.bytes ++ k.bytes, by simp only [Instr.payload, List.append_assoc]⟩
  | pktQ h k tab1 tab2 data =>
    cases hp
    exact ⟨h.bytes ++ k.bytes ++ tab1 ++ tab2, by simp only [Instr.payload, List.append_assoc]⟩
  | pktQX h k data => cases hp; exact ⟨h.bytes ++ k.bytes, by simp only [Instr.payload, List.append_assoc]⟩
  | pktR h r data => cases hp; exact ⟨h.bytes ++ r.bytes, by simp only [Instr.payload, List.append_assoc]⟩
  | pktB h data => cases hp; exact ⟨h.bytes, rfl⟩

section Layouts

variable {m : Bool} {ts : Timestamp} {i : Instr}

/-- The packet of a laid-out instruction: its record, the payload behind the header, the marker and the
timestamp (R55, R60). -/
theorem Layout.packet_eq {p : Packet} (hi : Layout m ts i) (hp : Machine.packetOf i = some p) :
    p = ⟨p.hdr, i.payload.drop p.hdr.hlen, m, ts⟩ := by
  have hdata : p.data = i.payload.drop p.hdr.hlen := by
    have hlen := hi.length_payload hp
    rw [List.suffix_iff_eq_drop.1 (data_suffix_payload hp), hlen, Nat.add_sub_cancel]
  obtain ⟨rfl, rfl⟩ : p.m = m ∧ p.ts = ts := by cases hi <;> cases hp <;> exact ⟨rfl, rfl⟩
  rw [← hdata]

/-- Of the laid-out instructions PKT.TRUNC alone gives the engine no packet (R77). -/
theorem Layout.packetOf_eq_none_iff (hi : Layout m ts i) :
    Machine.packetOf i = none ↔ i.form = some .truncated := by
  cases hi <;> simp [Machine.packetOf, Instr.form]

end Layouts

/-- Settles O8: the parser's record of the decoded instruction's payload is its packet's, behind which is the scan
data. -/
theorem parserAgreesWithTheDecoder : Obligations.ParserAgreesWithTheDecoder := by
  intro pay m ts
  obtain ⟨hi, hpay⟩ := layout_decodePayload pay m ts
  have hparse := hi.parse_payload
  rw [hpay] at hparse
  constructor
  · rw [hparse, Option.map_map]
    cases hp : Machine.packetOf (decodePayload pay m ts) with
    | none => rfl
    | some p =>
      have hpkt := hi.packet_eq hp
      rw [hpay] at hpkt
      exact congrArg some hpkt
  · rw [hparse, Option.map_eq_none_iff, hi.packetOf_eq_none_iff]

/-! ### What the parser reads -/

/-- A byte below `n` is the same in the first `n` bytes. -/
theorem payByte_take (pay : List Byte) {n k : Nat} (h : k < n) : payByte (pay.take n) k = payByte pay k := by
  simp [payByte, List.getD_eq_getElem?_getD, h]

/-- A section that ends by `n` is the same in the first `n` bytes. -/
theorem section_take (pay : List Byte) {n a k : Nat} (h : a + k ≤ n) :
    ((pay.take n).drop a).take k = (pay.drop a).take k := by
  rw [List.drop_take, List.take_take, Nat.min_eq_left (by omega)]

/-- The parser reads the first 144 bytes only: every byte, every section and every length test of it lies within
them (R78). -/
theorem parse_take (pay : List Byte) : parse (pay.take 144) = parse pay := by
  cases hr : isRestartType (payByte pay 4) with
  | true | false => simp [parse, payByte_take, section_take, hr]

/-- Settles O10: both parse as the 144 bytes they share. -/
theorem parserReadsOnlyTheHeaderBytes : Obligations.ParserReadsOnlyTheHeaderBytes := by
  intro pay pay' _ h
  rw [← parse_take pay, h, parse_take]

/-- Settles O1: the decoder evaluates on each word. -/
theorem sampleWordsDecode : Obligations.SampleWordsDecode :=
  ⟨rfl, rfl, rfl, rfl, rfl, rfl, rfl⟩

end Sys2Proof

/-! ## The whole next state of an unmarked packet -/

namespace Sys2Proof.Machine

/-- The whole next state of a regular form without the marker (R90, R103). -/
theorem exec_of_unmarked {i : Instr} {p : Packet} (hp : packetOf i = some p) (hm : p.m = false) (s : State) :
    exec i s = .next { s with
      buf := packetBuffer p.hdr p.data s.buf
      wc := BitVec.ofNat 25 (623 + p.hdr.off.toNat + p.data.length)
      efo := BitVec.ofNat 25 (p.hdr.off.toNat + p.data.length)
      cor := corruptedAfter s p
      results := s.results ++ [⟨none, packetEvents s p⟩] } := by
  rw [exec_of_packetOf i p s hp, runPacket_unmarked p s hm, packetBody_ev, packetBody_st, offsetMismatches_eq]
  rfl

/-- The buffer after a packet without tables: the scan copy alone (R98). -/
theorem packetBuffer_of_noTables {h : Hdr} (hq : h.qt = false) (data : List Byte) (buf : List Host.Cell) :
    packetBuffer h data buf = Memory.writeBytes buf (623 + h.off.toNat) data := by
  rw [packetBuffer, patchedBuffer_of_noTables hq, scanAddress_eq]

/-- The flag of a packet with a bad table length (R93). -/
theorem corruptedAfter_of_badTableLength (s : State) {p : Packet} (h : badTableLength p.hdr = true) :
    corruptedAfter s p = true := by
  rw [corruptedAfter, h, Bool.or_true, Bool.true_or]

/-- The flag of a packet without a bad table length (R92, R99). -/
theorem corruptedAfter_of_goodTableLength (s : State) {p : Packet} (h : badTableLength p.hdr = false) :
    corruptedAfter s p = (s.cor || decide (p.hdr.off.toNat ≠ s.efo.toNat) ||
      decide (Config.bufCap < 623 + p.hdr.off.toNat + p.data.length)) := by
  rw [corruptedAfter, h, Bool.or_false]

/-- A dimension in pixels fits its 16 bits (R56). -/
theorem dimension_toNat (units : Byte) : (dimension units).toNat = units.toNat * 8 := by
  have := units.isLt
  rw [dimension, BitVec.toNat_ofNat, Nat.mod_eq_of_lt (by omega)]

/-- The high byte of a dimension (R56, R94). -/
theorem hi8_dimension (units : Byte) : hi8 (dimension units) = BitVec.ofNat 8 (units.toNat * 8 / 256) := by
  rw [hi8, dimension_toNat]

/-- The low byte of a dimension (R56, R94). -/
theorem lo8_dimension (units : Byte) : lo8 (dimension units) = BitVec.ofNat 8 (units.toNat * 8) := by
  apply BitVec.eq_of_toNat_eq
  rw [lo8, dimension_toNat, BitVec.toNat_ofNat, BitVec.toNat_ofNat, Nat.mod_mod]

/-- The buffer after a packet with tables: height, width, the two tables, then the scan copy (R94, R95, R98). -/
theorem packetBuffer_tablesHdr (h : MainHeader) (rst : Bool) (k : QuantHeader) (tab1 tab2 data : List Byte)
    (buf : List Host.Cell) : packetBuffer (tablesHdr h rst k tab1 tab2) data buf =
      Memory.writeBytes
        (Memory.writeBytes (Memory.writeBytes (Memory.writeBytes (Memory.writeBytes buf
          163 [BitVec.ofNat 8 (h.h8.toNat * 8 / 256), BitVec.ofNat 8 (h.h8.toNat * 8)])
          165 [BitVec.ofNat 8 (h.w8.toNat * 8 / 256), BitVec.ofNat 8 (h.w8.toNat * 8)])
          25 tab1) 94 tab2) (623 + h.off.toNat) data := by
  simp only [← hi8_dimension, ← lo8_dimension]
  rfl

/-- Settles O17: no tables, so no patch and no bad length. -/
theorem plainPacketNextState : Obligations.PlainPacketNextState := by
  rintro h r data ts s t rfl
  constructor
  all_goals
    refine (exec_of_unmarked rfl rfl s).trans ?_
    rw [packetBuffer_of_noTables rfl, corruptedAfter_of_goodTableLength s rfl]
    rfl

/-- Settles O18: the tables are patched in before the copy, and their length is not bad. -/
theorem tablePacketNextState : Obligations.TablePacketNextState := by
  rintro h r k tab1 tab2 data ts s t rfl
  constructor
  all_goals
    refine (exec_of_unmarked rfl rfl s).trans ?_
    rw [packetBuffer_tablesHdr, corruptedAfter_of_goodTableLength s rfl]
    rfl

/-- Settles O19: no tables, so no patch, and the declared length is bad. -/
theorem badTableLengthPacketNextState : Obligations.BadTableLengthPacketNextState := by
  rintro h r k data ts s t rfl
  constructor
  all_goals
    refine (exec_of_unmarked rfl rfl s).trans ?_
    rw [packetBuffer_of_noTables rfl, corruptedAfter_of_badTableLength s rfl]
    rfl

end Sys2Proof.Machine

/-! ## Proofs of family 41, reassembly: the steps of a packet, and a frame that is lost -/

namespace Sys2Proof

/-! ### What the header record says of the payload -/

/-- A PKT command that decodes, decodes as its payload does. -/
theorem decodePayload_of_decode {c : Command} {i : Instr} (hop : c.operation = .pkt) (h : decode c = .ok i) :
    decodePayload c.pay c.m c.ts = i := by
  simp only [decode, hop] at h
  split at h
  · exact Decoded.ok.inj h
  · cases h

/-- A well-formed regular form is laid out as the decoder answers it. -/
theorem exists_layout_of_packetOf {i : Instr} {p : Packet} (hw : i.wellFormed = true)
    (hp : Machine.packetOf i = some p) : ∃ m ts, Layout m ts i := by
  have hop : (encode i).operation = .pkt := by cases i <;> cases hp <;> rfl
  have hi := (layout_decodePayload (encode i).pay (encode i).m (encode i).ts).1
  rw [decodePayload_of_decode hop (decode_encode hw)] at hi
  exact ⟨_, _, hi⟩

/-- A packet carries tables exactly at offset 0 with `Q >= 128` and a declared length of 128 (R57, R94). -/
theorem Layout.qt_iff {m : Bool} {ts : Timestamp} {i : Instr} {p : Packet} (hi : Layout m ts i)
    (hp : Machine.packetOf i = some p) :
    p.hdr.qt = true ↔ p.hdr.off.toNat = 0 ∧ 128 ≤ p.hdr.q.toNat ∧ p.hdr.qlen.toNat = 128 := by
  cases hi with
  | truncated => cases hp
  | restartQuant _ hq hk | quant _ hq hk =>
    cases hp
    obtain ⟨hq, hoff⟩ := of_decide_eq_true hq
    exact iff_of_true rfl ⟨hoff, hq, of_decide_eq_true hk⟩
  | restartQuantBad _ _ hk | quantBad _ _ hk =>
    cases hp
    exact iff_of_false Bool.false_ne_true fun ⟨_, _, hlen⟩ => of_decide_eq_false hk hlen
  | restart | base =>
    cases hp
    exact iff_of_false Bool.false_ne_true fun ⟨_, _, hlen⟩ => Nat.noConfusion hlen

/-- The dimensions are payload bytes 6 and 7, times 8 (R51, R56). -/
theorem dimensions_of_packetOf {i : Instr} {p : Packet} (hp : Machine.packetOf i = some p) :
    p.hdr.width = Machine.dimension (payByte i.payload 6) ∧
      p.hdr.height = Machine.dimension (payByte i.payload 7) := by
  cases i <;> cases hp <;> exact ⟨rfl, rfl⟩

/-- Tables end the header (R50, R54). -/
theorem payload_of_tables {i : Instr} {p : Packet} (hp : Machine.packetOf i = some p) (hq : p.hdr.qt = true) :
    ∃ pre : List Byte, i.payload = pre ++ (p.hdr.tab1 ++ (p.hdr.tab2 ++ p.data)) ∧ p.hdr.hlen = pre.length + 128 := by
  cases i with
  | pktTrunc | abort | reset => cases hp
  | pktRQX | pktQX | pktR | pktB => cases hp; cases hq
  | pktRQ h r k =>
    cases hp
    exact ⟨h.bytes ++ (r.bytes ++ k.bytes), by simp only [Instr.payload, List.append_assoc]; rfl, rfl⟩
  | pktQ h k =>
    cases hp
    exact ⟨h.bytes ++ k.bytes, by simp only [Instr.payload, List.append_assoc]; rfl, rfl⟩

/-- A byte of a section, counted from the start of the bytes before it. -/
theorem payByte_section (pre sec rest : List Byte) {j : Nat} (hj : j < sec.length) :
    payByte (pre ++ (sec ++ rest)) (pre.length + j) = sec.getD j 0 := by
  rw [payByte, List.getD_append_right _ _ _ _ (Nat.le_add_right _ _), Nat.add_sub_cancel_left,
    List.getD_append _ _ _ _ hj]

/-- The bytes of the tables, in payload order (R54, R95). -/
theorem payByte_tables {i : Instr} {p : Packet} (hp : Machine.packetOf i = some p) (hq : p.hdr.qt = true)
    (h1 : p.hdr.tab1.length = 64) (h2 : p.hdr.tab2.length = 64) {j : Nat} (hj : j < 64) :
    payByte i.payload (p.hdr.hlen - 128 + j) = p.hdr.tab1.getD j 0 ∧
      payByte i.payload (p.hdr.hlen - 64 + j) = p.hdr.tab2.getD j 0 := by
  obtain ⟨pre, hpay, hlen⟩ := payload_of_tables hp hq
  rw [hpay, hlen]
  constructor
  · rw [Nat.add_sub_cancel, payByte_section _ _ _ (by omega)]
  · have hidx : pre.length + 128 - 64 + j = (pre ++ p.hdr.tab1).length + j := by rw [List.length_append]; omega
    rw [hidx, ← List.append_assoc, payByte_section _ _ _ (by omega)]

end Sys2Proof

namespace Sys2Proof.Machine

/-- Settles O31: the payload is its header and then the scan data, and its length fits the command's operand. -/
theorem scanDataFollowsTheHeader : Obligations.ScanDataFollowsTheHeader := by
  intro i p hw hp
  obtain ⟨m, ts, hi⟩ := exists_layout_of_packetOf hw hp
  obtain ⟨hfits, hpos, -⟩ := packetOf_wellFormed i p hw hp
  have hlen := hi.length_payload hp
  have hL : (encode i).len.toNat = i.payload.length := by
    rw [hi.encode]
    exact Laws.pktCommand_len _ _ _ (by omega)
  have hpay : (encode i).pay = i.payload := by rw [hi.encode]; rfl
  have hdrop : i.payload.drop p.hdr.hlen = p.data := (congrArg Packet.data (hi.packet_eq hp)).symm
  rw [hL, hpay]
  exact ⟨rfl, hdrop, by omega, by omega, by omega⟩

/-! ### What a packet reports and leaves, one rule each -/

/-- Every operation leaves the port alone. -/
theorem Effect.port {s t : State} {i : Instr} {r : Result} (e : Effect s i t r) : t.port = s.port := by
  cases e with
  | packet _ e => exact e.port
  | truncated | truncatedBoundary | abort | reset => rfl

/-- Settles O16: the effect of the operation gives the result and leaves the port. -/
theorem everyOperationCompletes : Obligations.EveryOperationCompletes := by
  intro i s
  obtain ⟨t, r, ht, e⟩ := exec_effect i s
  exact ⟨t, r, ht, e.results, e.port⟩

section PacketRules

variable {p : Packet} {s t : State} {r : Result}

/-- `EFO` of a packet as a number (R101, R106, R114). -/
theorem PacketEffect.efo_toNat (e : PacketEffect p s t r) (hl : p.data.length ≤ 65535) :
    t.efo.toNat = if p.m then 0 else p.hdr.off.toNat + p.data.length := by
  rw [e.efo, apply_ite BitVec.toNat, (packet_toNat p hl).2]
  rfl

/-- The offset check reports any difference (R92). -/
theorem PacketEffect.offsetMismatch_iff (e : PacketEffect p s t r) :
    r.events.has .offsetMismatch = true ↔ p.hdr.off.toNat ≠ s.efo.toNat := by
  rw [e.has_of_ne (by decide)]
  simp [packetEvents, corruptionEvents_has]

/-- A packet is reported malformed when its declared table length is bad (R93). -/
theorem PacketEffect.malformedHeader_iff (e : PacketEffect p s t r) :
    r.events.has .malformedHeader = true ↔ badTableLength p.hdr = true := by
  rw [e.has_of_ne (by decide)]
  simp [packetEvents, corruptionEvents_has]

/-- An overrun is reported when the scan data would end above the buffer (R99). -/
theorem PacketEffect.bufferOverrun_iff (e : PacketEffect p s t r) :
    r.events.has .bufferOverrun = true ↔ Config.bufCap < 623 + p.hdr.off.toNat + p.data.length := by
  rw [e.has_of_ne (by decide)]
  simp [packetEvents, corruptionEvents_has]

/-- A marked packet of a corrupted frame reports the discard (R113). -/
theorem PacketEffect.frameDiscarded (e : PacketEffect p s t r) (hm : p.m = true) (hc : corruptedAfter s p = true) :
    r.events.has .frameDiscarded = true := by
  rw [e.has_of_ne (by decide)]
  simp [hm, hc]

/-- A corrupted frame is not handed over (R113). -/
theorem PacketEffect.noFrame_of_corrupted (e : PacketEffect p s t r) (hc : corruptedAfter s p = true) :
    r.frame = none := by
  rw [e.frame, hc, if_neg (fun h => Bool.noConfusion h.2)]

/-- Without the marker `COR` says whether the frame is corrupted once the packet's steps are done. -/
theorem PacketEffect.cor_of_unmarked (e : PacketEffect p s t r) (hm : p.m = false) : t.cor = corruptedAfter s p := by
  rw [e.cor, hm]
  rfl

/-- The scan copy, as bytes of the state (R98). -/
theorem PacketEffect.byte_scan (e : PacketEffect p s t r) (k : Nat) (h : k < p.data.length)
    (hc : 623 + p.hdr.off.toNat + k < Config.bufCap) : t.byte (623 + p.hdr.off.toNat + k) = some p.data[k] := by
  rw [State.byte_of_lt _ _ hc, e.buf, byteAt_packetBuffer_data _ _ _ _ h hc]

/-- Without tables the header region stays (R96). -/
theorem PacketEffect.byte_header_of_noTables (e : PacketEffect p s t r) (hq : p.hdr.qt = false) {a : Nat}
    (ha : a < 623) : t.byte a = s.byte a := by
  apply State.byte_congr
  rw [e.header ha, patchedBuffer_of_noTables hq]

/-- A packet leaves an address alone that it neither patches nor copies scan data to, as a byte of the state. -/
theorem PacketEffect.byte_of_outside (e : PacketEffect p s t r)
    (htab : p.hdr.qt = true → p.hdr.tab1.length = 64 ∧ p.hdr.tab2.length = 64) {a : Nat} (hpatch : patchable a = false)
    (ha : a < 623 + p.hdr.off.toNat ∨ 623 + p.hdr.off.toNat + p.data.length ≤ a) : t.byte a = s.byte a := by
  apply State.byte_congr
  rw [e.buf, byteAt_packetBuffer_of_outside _ _ _ _ htab hpatch ha]

/-- With tables the header region holds the patch (R94, R95): the dimensions most significant byte first, then the tables
in their order. -/
theorem PacketEffect.byte_patched (e : PacketEffect p s t r) (hq : p.hdr.qt = true) (h1 : p.hdr.tab1.length = 64)
    (h2 : p.hdr.tab2.length = 64) :
    t.byte 163 = some (hi8 p.hdr.height) ∧ t.byte 164 = some (lo8 p.hdr.height) ∧
      t.byte 165 = some (hi8 p.hdr.width) ∧ t.byte 166 = some (lo8 p.hdr.width) ∧
      (∀ j, j < 64 → t.byte (25 + j) = some (p.hdr.tab1.getD j 0)) ∧
      ∀ j, j < 64 → t.byte (94 + j) = some (p.hdr.tab2.getD j 0) := by
  have hbyte : ∀ {a : Nat} {v : Byte}, a < 623 → Memory.byteAt (patchedBuffer p.hdr s.buf) a = v →
      t.byte a = some v := fun ha hv => by
    rw [State.byte_of_lt _ _ (header_lt_bufCap ha), e.header ha, hv]
  have hpatch := fun a => byteAt_patchedBuffer p.hdr s.buf a hq h1 h2
  refine ⟨hbyte (by decide) (hpatch 163), hbyte (by decide) (hpatch 164), hbyte (by decide) (hpatch 165),
    hbyte (by decide) (hpatch 166), fun j hj => hbyte (by omega) ?_, fun j hj => hbyte (by omega) ?_⟩
  · rw [hpatch, if_pos (by omega), Nat.add_sub_cancel_left]
  · rw [hpatch, if_neg (by omega), if_pos (by omega), Nat.add_sub_cancel_left]

end PacketRules

/-! ### The steps of a packet -/

/-- Settles O24: neither sum wraps. -/
theorem cursorAndExpectedOffsetFollowThePacket : Obligations.CursorAndExpectedOffsetFollowThePacket := by
  intro i p s hw hp
  obtain ⟨t, r, ht, e⟩ := exec_packetEffect hp s
  have hl := data_length_le hw hp
  exact ⟨t, ht, e.wc_toNat hl, e.efo_toNat hl⟩

/-- A packet at another offset than the expected one corrupts the frame (R92). -/
theorem corruptedAfter_of_offset {s : State} {p : Packet} (h : p.hdr.off.toNat ≠ s.efo.toNat) :
    corruptedAfter s p = true :=
  (corruptedAfter_iff s p).2 (.inr (.inl h))

/-- A packet that overruns the buffer corrupts the frame (R99). -/
theorem corruptedAfter_of_overrun (s : State) {p : Packet}
    (h : Config.bufCap < 623 + p.hdr.off.toNat + p.data.length) : corruptedAfter s p = true :=
  (corruptedAfter_iff s p).2 (.inr (.inr (.inr h)))

/-- A table length is bad where a quantization-table header comes without its tables (R93). -/
theorem badTableLength_eq_false_iff (h : Hdr) : badTableLength h = false ↔ (h.qh = true → h.qt = true) := by
  rw [badTableLength]
  cases h.qh <;> simp

/-- Settles O25: the check reports and flags every difference, and where nothing else corrupts the flag keeps its
value. -/
theorem offsetMismatchSetsCorrupted : Obligations.OffsetMismatchSetsCorrupted := by
  intro i p s hp
  obtain ⟨t, r, ht, e⟩ := exec_packetEffect hp s
  refine ⟨t, r, ht, e.results, e.offsetMismatch_iff, fun hne hm => ?_, fun hne _ => ?_, fun hs hm => ?_,
    fun heq hlen hfits hm => ?_, fun hefo => ?_⟩
  · rw [e.cor_of_unmarked hm, corruptedAfter_of_offset hne]
  · exact e.noFrame_of_corrupted (corruptedAfter_of_offset hne)
  · rw [e.cor_of_unmarked hm, corruptedAfter_of_cor p hs]
  · rw [e.cor_of_unmarked hm, corruptedAfter_of_goodTableLength s ((badTableLength_eq_false_iff _).2 hlen)]
    simp [heq, Nat.not_lt.2 (heq ▸ hfits)]
  · have hoff := FragOffset.toNat_lt p.hdr.off
    exact e.offsetMismatch_iff.2 (by omega)

/-- Settles O26: a declared table length comes at offset 0 only, so the scan data starts at 623. -/
theorem badTableLengthFlagsAndContinues : Obligations.BadTableLengthFlagsAndContinues := by
  intro i p s hw hp hqh hqt
  obtain ⟨t, r, ht, e⟩ := exec_packetEffect hp s
  obtain ⟨m, ts, hi⟩ := exists_layout_of_packetOf hw hp
  obtain ⟨-, -, -, -, hzero⟩ := packetOf_wellFormed i p hw hp
  have hoff := hzero hqh
  have hl := data_length_le hw hp
  have hcap := bufCap_ge
  have hbad : badTableLength p.hdr = true := by rw [badTableLength, hqh, hqt]; rfl
  have hcor := corruptedAfter_of_badTableLength s hbad
  have hwc := e.wc_toNat hl
  have hefo := e.efo_toNat hl
  have hscan := e.byte_scan
  simp only [hoff, Nat.add_zero, Nat.zero_add] at hwc hefo hscan
  refine ⟨t, r, ht, e.results, e.malformedHeader_iff.2 hbad, e.noFrame_of_corrupted hcor,
    fun hm => (e.cor_of_unmarked hm).trans hcor, fun a ha => e.byte_header_of_noTables hqt ha, ?_,
    (congrArg Packet.data (hi.packet_eq hp)).symm, fun k hk => hscan k hk (by omega), hwc, hefo⟩
  rw [hlen_of_packetOf hp, hqh, hqt]
  cases p.hdr.rst
  · exact .inl rfl
  · exact .inr rfl

/-- Settles O27: the record's dimensions and tables are the payload's bytes, which the patch stores. -/
theorem tablePacketPatchesTheHeader : Obligations.TablePacketPatchesTheHeader := by
  intro i p s hw hp
  obtain ⟨m, ts, hi⟩ := exists_layout_of_packetOf hw hp
  obtain ⟨t, r, ht, e⟩ := exec_packetEffect hp s
  obtain ⟨-, -, -, htab, -⟩ := packetOf_wellFormed i p hw hp
  refine ⟨hi.qt_iff hp, t, ht, fun hq => ?_, fun hq a ha => e.byte_header_of_noTables hq ha⟩
  obtain ⟨h1, h2⟩ := htab hq
  obtain ⟨hwidth, hheight⟩ := dimensions_of_packetOf hp
  have hbytes := e.byte_patched hq h1 h2
  rw [hwidth, hheight, hi8_dimension, lo8_dimension, hi8_dimension, lo8_dimension] at hbytes
  obtain ⟨hh1, hh0, hw1, hw0, ht1, ht2⟩ := hbytes
  refine ⟨hh1, hh0, hw1, hw0, fun j hj => ?_, fun j hj => ?_, fun a ha hpatch => ?_⟩
  · rw [ht1 j hj, (payByte_tables hp hq h1 h2 hj).1]
  · rw [ht2 j hj, (payByte_tables hp hq h1 h2 hj).2]
  · exact e.byte_of_outside htab hpatch (.inl (by omega))

/-- Settles O28: a regular form that fails the condition carries no tables, and the other operations but RESET write no
byte at all. -/
theorem noOtherConditionWritesTheHeader : Obligations.NoOtherConditionWritesTheHeader := by
  intro i s hw hreset hcond
  obtain ⟨t, r, ht, e⟩ := exec_effect i s
  refine ⟨t, ht, fun a ha => ?_⟩
  cases e with
  | @packet _ p _ _ hp e =>
    obtain ⟨m, ts, hi⟩ := exists_layout_of_packetOf hw hp
    exact e.byte_header_of_noTables (Bool.eq_false_iff.2 (mt (hi.qt_iff hp).1 (hcond p hp))) ha
  | truncated | truncatedBoundary | abort => rfl
  | reset => exact absurd rfl hreset

/-- Settles O30: the scan copy, and the end of the buffer. -/
theorem scanCopyStoresTheData : Obligations.ScanCopyStoresTheData := by
  intro i p s hp
  obtain ⟨t, r, ht, e⟩ := exec_packetEffect hp s
  exact ⟨t, ht, e.byte_scan, fun k hk => State.byte_of_ge t _ hk⟩

/-- Settles O32: an overrun is one of the three corruptions, and the scan copy stops at the end of the buffer. -/
theorem overrunIsFlaggedAndClipped : Obligations.OverrunIsFlaggedAndClipped := by
  intro i p s hp
  obtain ⟨t, r, ht, e⟩ := exec_packetEffect hp s
  refine ⟨t, r, ht, e.results, e.bufferOverrun_iff, fun hover => ?_⟩
  have hcor := corruptedAfter_of_overrun s hover
  exact ⟨e.noFrame_of_corrupted hcor, fun hm => (e.cor_of_unmarked hm).trans hcor, e.byte_scan,
    fun a ha => State.byte_of_ge t a ha⟩

/-- No patch reaches the data region (R32). -/
theorem patchable_of_ge {a : Nat} (ha : 623 ≤ a) : patchable a = false := by
  simp only [patchable, Bool.or_eq_false_iff, decide_eq_false_iff_not]
  omega

/-- Settles O33: with `n = 0` the scan copy writes nothing, and every other step is as for any packet. -/
theorem emptyScanData : Obligations.EmptyScanData := by
  intro i p s hw hp hdata
  obtain ⟨t, r, ht, e⟩ := exec_packetEffect hp s
  obtain ⟨-, -, -, htab, -⟩ := packetOf_wellFormed i p hw hp
  have hl := data_length_le hw hp
  have hn : p.data.length = 0 := by rw [hdata]; rfl
  have hwc := e.wc_toNat hl
  have hefo := e.efo_toNat hl
  rw [hn, Nat.add_zero] at hwc hefo
  refine ⟨t, r, ht, e.results, fun a ha => e.byte_of_outside htab (patchable_of_ge ha) (by omega), hwc, hefo,
    e.offsetMismatch_iff, fun hm hclean => ⟨t.emission p.ts, ?_, (t.emission_length p.ts).trans hwc⟩⟩
  rw [e.frame, if_pos ⟨hm, Bool.eq_false_iff.2 (mt (corruptedAfter_iff s p).1 hclean)⟩]

/-! ### The marker -/

/-- The marker of an instruction is its packet's. -/
theorem packetOf_withMarker (b : Bool) (i : Instr) :
    packetOf (withMarker b i) = (packetOf i).map fun p => { p with m := b } := by
  cases i <;> rfl

/-- Settles O36: the buffer and the cursor after a packet do not depend on its marker; a packet cut short leaves both
alone. -/
theorem boundaryKeepsBufferAndCursor : Obligations.BoundaryKeepsBufferAndCursor := by
  intro i s hm
  rcases packetOf_cases i with ⟨p, hp⟩ | ⟨pay, m, ts, rfl⟩ | rfl | rfl
  · have hp' : packetOf (withMarker false i) = some { p with m := false } := by rw [packetOf_withMarker, hp]; rfl
    obtain ⟨t, r, ht, e⟩ := exec_packetEffect hp s
    obtain ⟨t', r', ht', e'⟩ := exec_packetEffect hp' s
    exact ⟨t, t', ht, ht', e.buf.trans e'.buf.symm, e.wc.trans e'.wc.symm⟩
  · obtain rfl : m = true := hm
    exact ⟨_, _, runMalformed_marked ts s, runMalformed_unmarked ts s, rfl, rfl⟩
  · cases hm
  · cases hm

/-- Settles O20: the two ways a packet cut short can end. -/
theorem truncatedPacketOnlyFlags : Obligations.TruncatedPacketOnlyFlags := fun _ ts s =>
  ⟨runMalformed_unmarked ts s, runMalformed_marked ts s⟩

/-! ### A corrupted frame is lost -/

section CorruptedFrame

variable {s t : State} {i : Instr} {r : Result}

/-- A corrupted frame is not handed over, whatever operation comes (R104, R113). -/
theorem Effect.noFrame_of_corrupted (e : Effect s i t r) (hs : s.cor = true) : r.frame = none := by
  cases e with
  | @packet _ p _ _ _ e => exact e.noFrame_of_corrupted (corruptedAfter_of_cor p hs)
  | truncated _ _ _ hr | truncatedBoundary _ _ _ hr | abort _ hr | reset _ hr => rw [hr]

/-- The boundary of a corrupted frame reports the discard (R113). -/
theorem Effect.frameDiscarded_of_corrupted (e : Effect s i t r) (hs : s.cor = true) (hm : isMarkerPacket i = true) :
    r.events.has .frameDiscarded = true := by
  cases e with
  | @packet _ p _ _ hp e =>
    exact e.frameDiscarded ((isMarkerPacket_of_packetOf _ _ hp).symm.trans hm) (corruptedAfter_of_cor p hs)
  | truncatedBoundary _ _ _ hr => rw [hr]; rfl
  | truncated | abort | reset => cases hm

/-- A packet without the marker keeps the frame corrupted (R17). -/
theorem Effect.cor_of_corrupted (e : Effect s i t r) (hs : s.cor = true) (hop : i.operation = .pkt)
    (hm : isMarkerPacket i = false) : t.cor = true := by
  by_contra hcor
  rcases e.cor_cleared hs (Bool.eq_false_iff.2 hcor) with h | rfl | rfl
  · exact Bool.noConfusion (hm.symm.trans h)
  · cases hop
  · cases hop

end CorruptedFrame

/-- From `COR = 1`, unmarked packets and then a marked one hand over no frame, report the discard last and leave a
clean state (R104, R145): the packets keep `COR`, by induction on their list. -/
theorem runInstrs_of_corrupted (is : List Instr) (last : Instr) (s : State) (hs : s.cor = true)
    (his : ∀ i ∈ is, i.operation = .pkt ∧ isMarkerPacket i = false) (hlast : isMarkerPacket last = true) :
    ∃ t rs r, runInstrs (is ++ [last]) s = .next t ∧ Clean t ∧ t.results = s.results ++ (rs ++ [r]) ∧
      (∀ q ∈ rs ++ [r], q.frame = none) ∧ r.events.has .frameDiscarded = true := by
  induction is generalizing s with
  | nil =>
    obtain ⟨t, r, ht, e⟩ := exec_effect last s
    obtain ⟨hefo, hcor, -⟩ := e.boundary hlast
    refine ⟨t, [], r, runInstrs_cons_of_exec [] ht, ⟨hefo, hcor⟩, e.results, fun q hq => ?_,
      e.frameDiscarded_of_corrupted hs hlast⟩
    rw [List.mem_singleton.1 hq, e.noFrame_of_corrupted hs]
  | cons i is ih =>
    obtain ⟨⟨hop, hm⟩, his⟩ := List.forall_mem_cons.1 his
    obtain ⟨u, q, hu, e⟩ := exec_effect i s
    obtain ⟨t, rs, r, ht, hclean, hres, hnone, hdisc⟩ := ih u (e.cor_of_corrupted hs hop hm) his
    refine ⟨t, q :: rs, r, (runInstrs_cons_of_exec _ hu).trans ht, hclean, ?_,
      List.forall_mem_cons.2 ⟨e.noFrame_of_corrupted hs, hnone⟩, hdisc⟩
    rw [hres, e.results, List.append_assoc]
    rfl

/-- Settles O53: the results of the run follow those before it, and the discard is the last. -/
theorem corruptedFrameIsLost : Obligations.CorruptedFrameIsLost := by
  intro is last s hs his hlast
  obtain ⟨t, rs, r, ht, hclean, hres, hnone, hdisc⟩ := runInstrs_of_corrupted is last s hs his hlast
  refine ⟨t, ht, hclean, ?_, r, ?_, hdisc⟩
  · rwa [resultsFrom, hres, List.drop_left]
  · rw [hres, ← List.append_assoc, List.getLast?_concat]

end Sys2Proof.Machine

/-! ## Proofs of family 42, frame emission -/

namespace Sys2Proof.Machine

/-! ### What an operation hands over, and what it records of it -/

/-- Steps 2 to 5 leave the frame clean when nothing corrupts it. -/
theorem corruptedAfter_of_not_frameCorrupted {s : State} {p : Packet} (h : ¬ FrameCorrupted s p) :
    corruptedAfter s p = false :=
  Bool.eq_false_iff.2 (mt (corruptedAfter_iff s p).1 h)

/-- An emission shows the bytes of the buffer (R111). -/
theorem State.byte_emission {t : State} {ts : Timestamp} (hcap : t.wc.toNat ≤ Config.bufCap) (a : Nat)
    (h : a < (t.emission ts).bytes.length) : t.byte a = some (t.emission ts).bytes[a] := by
  rw [State.emission_length] at h
  rw [State.emission_getElem, State.byte_of_lt _ _ (by omega)]

section Emission

variable {p : Packet} {i : Instr} {s t : State} {r : Result} {f : Frame}

/-- The frames a packet can hand over: the emission, where it is marked and the frame is not corrupted (R110). -/
theorem PacketEffect.frame_eq_some_iff (e : PacketEffect p s t r) :
    r.frame = some f ↔ (p.m = true ∧ corruptedAfter s p = false) ∧ t.emission p.ts = f := by
  rw [e.frame]
  split
  next h => simp [h]
  next h => simp [h]

/-- A packet that emits records its timestamp (R117). -/
theorem PacketEffect.timestamps_of_frame (e : PacketEffect p s t r) (hf : r.frame = some f) :
    t.lts = f.ts ∧ t.ltv = true := by
  obtain ⟨hemit, rfl⟩ := e.frame_eq_some_iff.1 hf
  obtain ⟨hlts, hltv⟩ := e.timestamps
  rw [hlts, hltv, if_pos hemit, if_pos hemit]
  exact ⟨rfl, rfl⟩

/-- The corruption events are not the timestamp diagnostic. -/
theorem packetEvents_has_tsNonincreasing (s : State) (p : Packet) :
    (packetEvents s p).has .tsNonincreasing = false := by
  simp [packetEvents, corruptionEvents_has]

/-- A packet raises the timestamp diagnostic exactly where it emits and the comparison holds (R116). -/
theorem PacketEffect.tsNonincreasing_iff (e : PacketEffect p s t r) : r.events.has .tsNonincreasing = true ↔
    (p.m = true ∧ corruptedAfter s p = false) ∧ s.ltv = true ∧ p.ts.toNat ≤ s.lts.toNat := by
  have hcmp : tsNonincreasing s.ltv s.lts p.ts = true ↔ s.ltv = true ∧ p.ts.toNat ≤ s.lts.toNat := by
    simp [tsNonincreasing]
  have hev := packetEvents_has_tsNonincreasing s p
  rw [e.events, ← hcmp]
  cases p.m with
  | false => simp [hev]
  | true =>
    cases corruptedAfter s p with
    | true => simp [hev]
    | false => cases tsNonincreasing s.ltv s.lts p.ts <;> simp [hev]

/-- The effect of a regular form is its packet's. -/
theorem Effect.packetEffect (e : Effect s i t r) (hp : packetOf i = some p) : PacketEffect p s t r := by
  cases e with
  | packet hp' e => rwa [Option.some.inj (hp.symm.trans hp')]
  | truncated | truncatedBoundary | abort | reset => cases hp

/-- An operation that is no regular form hands over no frame and raises no timestamp diagnostic (R91, R125, R126). -/
theorem Effect.of_notPacket (e : Effect s i t r) (hp : packetOf i = none) :
    r.frame = none ∧ r.events.has .tsNonincreasing = false := by
  cases e with
  | packet hp' => rw [hp] at hp'; cases hp'
  | truncated _ _ _ hr | truncatedBoundary _ _ _ hr | abort _ hr | reset _ hr => rw [hr]; exact ⟨rfl, rfl⟩

/-- The timestamp diagnostic goes with an emission whose timestamp is not above a valid `LTS` (R116). -/
theorem Effect.tsNonincreasing_iff (e : Effect s i t r) : r.events.has .tsNonincreasing = true ↔
    ∃ f, r.frame = some f ∧ s.ltv = true ∧ f.ts.toNat ≤ s.lts.toNat := by
  cases hp : packetOf i with
  | none =>
    obtain ⟨hf, hev⟩ := e.of_notPacket hp
    simp [hf, hev]
  | some p =>
    have e := e.packetEffect hp
    rw [e.tsNonincreasing_iff]
    constructor
    · rintro ⟨hemit, hts⟩
      exact ⟨t.emission p.ts, e.frame_eq_some_iff.2 ⟨hemit, rfl⟩, hts⟩
    · rintro ⟨f, hf, hts⟩
      obtain ⟨hemit, rfl⟩ := e.frame_eq_some_iff.1 hf
      exact ⟨hemit, hts⟩

/-- An operation that hands over a frame records its timestamp (R117). -/
theorem Effect.timestamps_of_frame (e : Effect s i t r) (hf : r.frame = some f) : t.lts = f.ts ∧ t.ltv = true := by
  cases hp : packetOf i with
  | none =>
    obtain ⟨hnone, -⟩ := e.of_notPacket hp
    rw [hnone] at hf
    cases hf
  | some p => exact (e.packetEffect hp).timestamps_of_frame hf

/-- An operation but RESET that hands over no frame leaves the timestamp registers alone (R18, R19, R117). -/
theorem Effect.timestamps_of_noFrame (e : Effect s i t r) (hi : i ≠ .reset) (hf : r.frame = none) :
    t.lts = s.lts ∧ t.ltv = s.ltv := by
  cases e with
  | packet _ e => exact e.timestamps_of_noFrame hf
  | truncated | truncatedBoundary | abort => exact ⟨rfl, rfl⟩
  | reset => exact absurd rfl hi

/-- The boundary of a frame that is corrupted, by this packet or before, hands over no frame and reports the discard; a
packet cut short is such a one (R113). -/
theorem Effect.discard (e : Effect s i t r) (hm : isMarkerPacket i = true)
    (hc : ∀ p, packetOf i = some p → FrameCorrupted s p) :
    r.frame = none ∧ r.events.has .frameDiscarded = true := by
  cases e with
  | @packet _ p _ _ hp e =>
    have hpm : p.m = true := (isMarkerPacket_of_packetOf _ _ hp).symm.trans hm
    have hcor : corruptedAfter s p = true := (corruptedAfter_iff s p).2 (hc p hp)
    exact ⟨e.noFrame_of_corrupted hcor, e.frameDiscarded hpm hcor⟩
  | truncatedBoundary _ _ _ hr => rw [hr]; exact ⟨rfl, rfl⟩
  | truncated | abort | reset => cases hm

end Emission

/-! ### The statements -/

/-- Settles O37: neither the cursor wraps nor the emission leaves the buffer, as nothing corrupts the frame. -/
theorem cleanBoundaryEmitsTheBuffer : Obligations.CleanBoundaryEmitsTheBuffer := by
  intro i p s hw hp hm hclean
  obtain ⟨t, r, ht, e⟩ := exec_packetEffect hp s
  have hc := corruptedAfter_of_not_frameCorrupted hclean
  obtain ⟨-, -, -, hfits⟩ := (corruptedAfter_eq_false_iff s p).1 hc
  have hwc := e.wc_toNat (data_length_le hw hp)
  have hlen := t.emission_length p.ts
  have hf : r.frame = some (t.emission p.ts) := e.frame_eq_some_iff.2 ⟨⟨hm, hc⟩, rfl⟩
  obtain ⟨hlts, hltv⟩ := e.timestamps_of_frame hf
  refine ⟨t, t.emission p.ts, r.events, ht, ?_, rfl, hlen.trans hwc, hlen.symm, State.byte_emission (by omega), rfl, rfl,
    hlts, hltv⟩
  rw [e.results, ← hf]

/-- Settles O38: a discard is no emission, so that neither the diagnostic nor the timestamp registers see it. -/
theorem corruptedBoundaryDiscards : Obligations.CorruptedBoundaryDiscards := by
  intro i s hm hc
  obtain ⟨t, t', ht, ht', hbuf, -⟩ := boundaryKeepsBufferAndCursor i s hm
  obtain ⟨r, e⟩ := effect_of_exec ht
  obtain ⟨hf, hdisc⟩ := e.discard hm hc
  have hts : r.events.has .tsNonincreasing = false := by
    rw [Bool.eq_false_iff, ne_eq, e.tsNonincreasing_iff, hf]
    rintro ⟨f, hsome, -⟩
    cases hsome
  have hi : i ≠ .reset := by rintro rfl; cases hm
  exact ⟨t, t', r, ht, ht', e.results, hf, hdisc, hts, hbuf, e.timestamps_of_noFrame hi hf⟩

/-- Settles O40: the rule over every operation. -/
theorem timestampDiagnosticExactly : Obligations.TimestampDiagnosticExactly := by
  intro i s
  obtain ⟨t, r, ht, e⟩ := exec_effect i s
  exact ⟨t, r, ht, e.results, e.tsNonincreasing_iff⟩

/-- Settles O41: the two rules, with a frame and without. -/
theorem timestampRegistersFollowEmissions : Obligations.TimestampRegistersFollowEmissions := by
  intro i s hi
  obtain ⟨t, r, ht, e⟩ := exec_effect i s
  exact ⟨t, r, ht, e.results, fun _ => e.timestamps_of_frame, e.timestamps_of_noFrame hi⟩

/-- A packet at offset 0 on a clean block, with its tables where it announces them, leaves the frame clean: its scan
data always fits the buffer (R4, R97). -/
theorem not_frameCorrupted_of_clean {i : Instr} {p : Packet} {s : State} (hw : i.wellFormed = true)
    (hp : packetOf i = some p) (hs : Clean s) (hoff : p.hdr.off.toNat = 0)
    (htab : p.hdr.qh = true → p.hdr.qt = true) : ¬ FrameCorrupted s p := by
  obtain ⟨hefo, hcor⟩ := hs
  have hl := data_length_le hw hp
  have hcap := bufCap_ge
  rw [← corruptedAfter_iff, Bool.not_eq_true, corruptedAfter_eq_false_iff]
  exact ⟨hcor, by rw [hoff, hefo]; rfl, (badTableLength_eq_false_iff _).2 htab, by omega⟩

/-- Settles O42: a clean block has tracked no scan data yet, so O51's frame holds this packet's only. -/
theorem singlePacketFrame : Obligations.SinglePacketFrame := by
  intro i p s hw hp hm hs hoff htab
  exact emittedFrameIsHeaderThenAllScanData i p s ⟨[], false⟩ hw hp hm (scanTracked_of_clean hs)
    (not_frameCorrupted_of_clean hw hp hs hoff htab)

end Sys2Proof.Machine

/-! ## Proofs of family 43, control operations -/

namespace Sys2Proof.Machine

/-! ### What ABORT and RESET answer, and what RESET leaves of the buffer -/

/-- ABORT hands over an empty result with the per-frame state reset (R126). -/
theorem exec_abort (s : State) : exec .abort s = .next (s.frameReset.addResult ⟨none, 0⟩) := rfl

/-- RESET hands over an empty result with the instance reset (R125). -/
theorem exec_reset (s : State) : exec .reset s = .next (s.resetInstance.addResult ⟨none, 0⟩) := rfl

/-- After RESET a byte of the header region is the template's, and it exists (R125, R4). -/
theorem State.byte_resetInstance_header (s : State) {a : Nat} (ha : a < 623) :
    s.resetInstance.byte a = some Config.template[a] := by
  rw [State.byte_of_lt _ _ (header_lt_bufCap ha), byteAt_resetInstance_header s ha]

/-- The template ends where the data region starts, so RESET writes no byte of that region (log entry 7). -/
theorem State.byte_resetInstance_data (s : State) {a : Nat} (ha : 623 ≤ a) : s.resetInstance.byte a = s.byte a := by
  apply State.byte_congr
  rw [State.resetInstance_buf]
  exact Memory.byteAt_writeBytes_of_outside _ _ _ _ (.inr (by simpa using ha))

/-! ### The statements -/

/-- Settles O21: the reset of the per-frame state writes `EFO` and `COR` only. -/
theorem abortClearsThePerFrameState : Obligations.AbortClearsThePerFrameState := exec_abort

/-- Settles O22: the buffer's two regions by their lemmas, the registers as `State.resetInstance` sets them. -/
theorem resetSetsEveryElement : Obligations.ResetSetsEveryElement := fun s =>
  ⟨_, exec_reset s, fun _ => s.byte_resetInstance_header, fun _ => s.byte_resetInstance_data,
    rfl, rfl, rfl, rfl, rfl, rfl, rfl, rfl⟩

end Sys2Proof.Machine

/-! ## Proofs of family 60, exceptions -/

namespace Sys2Proof.Machine

/-! ### The event vector -/

/-- The vector has a bit for every event (R141). -/
theorem Event.bit_lt (e : Event) : e.bit < 5 := by
  cases e <;> decide

/-- Raising an event is an or with its bit's value (R135). -/
theorem EventVec.withEvent_toNat (v : EventVec) (e : Event) : (v.withEvent e).toNat = v.toNat ||| 2 ^ e.bit := by
  have hpow : 2 ^ e.bit < 2 ^ 5 := Nat.pow_lt_pow_right (by decide) e.bit_lt
  rw [EventVec.withEvent, BitVec.toNat_or, BitVec.toNat_twoPow, Nat.mod_eq_of_lt hpow]

/-- Settles O43: each event's bit has R141's number. -/
theorem eventBitNumbers : Obligations.EventBitNumbers := by
  intro v e
  rw [v.withEvent_toNat e]
  cases e <;> rfl

/-! ### Waiting and running -/

/-- Settles O13: the empty port is the branch of `step` that waits. -/
theorem stepWaitsWhileNothingIsIssued : Obligations.StepWaitsWhileNothingIsIssued := by
  intro s hport
  simp only [step, hport]

/-- A sequence runs through, leaves the port alone and adds one result per operation: one operation does, by induction
on the sequence. -/
theorem runInstrs_completes (is : List Instr) (s : State) : ∃ t rs, runInstrs is s = .next t ∧ t.port = s.port ∧
    t.results = s.results ++ rs ∧ rs.length = is.length := by
  induction is generalizing s with
  | nil => exact ⟨s, [], rfl, rfl, (List.append_nil _).symm, rfl⟩
  | cons i is ih =>
    obtain ⟨u, r, hu, e⟩ := exec_effect i s
    obtain ⟨t, rs, ht, hport, hres, hlen⟩ := ih u
    refine ⟨t, r :: rs, (runInstrs_cons_of_exec is hu).trans ht, hport.trans e.port, ?_, congrArg (· + 1) hlen⟩
    rw [hres, e.results, List.append_assoc, List.singleton_append]

/-- Settles O52: the results of the run follow those before it. -/
theorem everySequenceRunsToItsEnd : Obligations.EverySequenceRunsToItsEnd := by
  intro is s
  obtain ⟨t, rs, ht, hport, hres, hlen⟩ := runInstrs_completes is s
  refine ⟨t, ht, hport, ?_, ?_⟩
  · rw [hres, List.length_append, hlen]
  · rw [hres, List.take_left]

/-! ### Which events come together -/

/-- A packet that leaves the frame clean raises none of the three corruption events (R136 to R138). -/
theorem packetEvents_of_clean {s : State} {p : Packet} (hc : corruptedAfter s p = false) : packetEvents s p = 0 := by
  obtain ⟨-, hoff, htab, hfits⟩ := (corruptedAfter_eq_false_iff s p).1 hc
  rw [packetEvents, htab, decide_eq_false (not_not_intro hoff), decide_eq_false (Nat.not_lt.2 hfits)]
  rfl

/-- A regular form is a PKT (R57). -/
theorem operation_of_packetOf {i : Instr} {p : Packet} (hp : packetOf i = some p) : i.operation = .pkt := by
  cases i <;> cases hp <;> rfl

/-- A packet cut short is no regular form (R59). -/
theorem packetOf_of_truncated {i : Instr} (hf : i.form = some .truncated) : packetOf i = none := by
  rw [Option.eq_none_iff_forall_ne_some]
  intro p hp
  cases i <;> cases hp <;> cases hf

section Events

variable {p : Packet} {i : Instr} {s t : State} {r : Result} {f : Frame}

/-- A packet that emits reports nothing but the timestamp diagnostic (R143). -/
theorem PacketEffect.has_of_frame (e : PacketEffect p s t r) (hf : r.frame = some f) {ev : Event}
    (hev : ev ≠ .tsNonincreasing) : r.events.has ev = false := by
  obtain ⟨⟨-, hc⟩, -⟩ := e.frame_eq_some_iff.1 hf
  rw [e.has_of_ne hev, packetEvents_of_clean hc, hc]
  simp

/-- A packet reports the discard exactly where it is marked and the frame is corrupted (R113, R140). -/
theorem PacketEffect.frameDiscarded_iff (e : PacketEffect p s t r) :
    r.events.has .frameDiscarded = true ↔ p.m = true ∧ corruptedAfter s p = true := by
  rw [e.has_of_ne (by decide)]
  simp [packetEvents, corruptionEvents_has]

/-- A marked packet hands over no frame exactly where the frame is corrupted (R113). -/
theorem PacketEffect.noFrame_iff_of_marked (e : PacketEffect p s t r) (hm : p.m = true) :
    r.frame = none ↔ corruptedAfter s p = true := by
  rw [e.frame]
  simp [hm]

/-- A bad table length comes at offset 0, where no payload overruns the buffer (R143). -/
theorem not_overrun_of_badTableLength (hw : i.wellFormed = true) (hp : packetOf i = some p)
    (hbad : badTableLength p.hdr = true) : ¬ Config.bufCap < 623 + p.hdr.off.toNat + p.data.length := by
  obtain ⟨-, -, -, -, hzero⟩ := packetOf_wellFormed i p hw hp
  obtain ⟨hqh, -⟩ := (Bool.and_eq_true _ _).mp hbad
  have hoff := hzero hqh
  have hl := data_length_le hw hp
  have hcap := bufCap_ge
  omega

/-- Only an operation with a frame raises the timestamp diagnostic, and it reports nothing else (R143). -/
theorem Effect.has_of_tsNonincreasing (e : Effect s i t r) (hts : r.events.has .tsNonincreasing = true) {ev : Event}
    (hev : ev ≠ .tsNonincreasing) : r.events.has ev = false := by
  obtain ⟨f, hf, -⟩ := e.tsNonincreasing_iff.1 hts
  cases hp : packetOf i with
  | none =>
    obtain ⟨-, hno⟩ := e.of_notPacket hp
    exact Bool.noConfusion (hno.symm.trans hts)
  | some p => exact (e.packetEffect hp).has_of_frame hf hev

/-- A packet with a bad table length does not overrun the buffer: it comes at offset 0, where no payload does (R143). -/
theorem PacketEffect.noOverrun_of_malformed (e : PacketEffect p s t r) (hw : i.wellFormed = true)
    (hp : packetOf i = some p) (hbad : r.events.has .malformedHeader = true) :
    r.events.has .bufferOverrun = false := by
  rw [Bool.eq_false_iff, ne_eq, e.bufferOverrun_iff]
  exact not_overrun_of_badTableLength hw hp (e.malformedHeader_iff.1 hbad)

/-- An operation that is no regular form checks no offset and copies no scan data (R91, R125, R126). -/
theorem Effect.noOffsetMismatch_noOverrun_of_notPacket (e : Effect s i t r) (hp : packetOf i = none) :
    r.events.has .offsetMismatch = false ∧ r.events.has .bufferOverrun = false := by
  cases e with
  | packet hp' => rw [hp] at hp'; cases hp'
  | truncated _ _ _ hr | truncatedBoundary _ _ _ hr | abort _ hr | reset _ hr => rw [hr]; exact ⟨rfl, rfl⟩

/-- MALFORMED_HEADER excludes BUFFER_OVERRUN (R143). -/
theorem Effect.noOverrun_of_malformed (e : Effect s i t r) (hw : i.wellFormed = true)
    (hbad : r.events.has .malformedHeader = true) : r.events.has .bufferOverrun = false := by
  cases hp : packetOf i with
  | none => exact (e.noOffsetMismatch_noOverrun_of_notPacket hp).2
  | some p => exact (e.packetEffect hp).noOverrun_of_malformed hw hp hbad

/-- The controls hand over an empty result (R125, R126). -/
theorem Effect.result_of_control (e : Effect s i t r) (hop : i.operation ≠ .pkt) : r = ⟨none, 0⟩ := by
  cases e with
  | packet hp => exact absurd (operation_of_packetOf hp) hop
  | truncated | truncatedBoundary => exact absurd rfl hop
  | abort _ hr | reset _ hr => exact hr

/-- The discard is reported exactly at a boundary without a frame (R113, R140). -/
theorem Effect.frameDiscarded_iff (e : Effect s i t r) :
    r.events.has .frameDiscarded = true ↔ isMarkerPacket i = true ∧ r.frame = none := by
  cases e with
  | packet hp e =>
    rw [e.frameDiscarded_iff, isMarkerPacket_of_packetOf _ _ hp]
    exact and_congr_right fun hm => (e.noFrame_iff_of_marked hm).symm
  | truncated _ _ _ hr | truncatedBoundary _ _ _ hr | abort _ hr | reset _ hr => simp [hr, isMarkerPacket]

/-- Only a boundary hands over a frame (R119). -/
theorem Effect.marked_of_frame (e : Effect s i t r) (hf : r.frame = some f) : isMarkerPacket i = true := by
  cases e with
  | packet hp e =>
    obtain ⟨⟨hm, -⟩, -⟩ := e.frame_eq_some_iff.1 hf
    exact (isMarkerPacket_of_packetOf _ _ hp).trans hm
  | truncated _ _ _ hr | truncatedBoundary _ _ _ hr | abort _ hr | reset _ hr => rw [hr] at hf; cases hf

end Events

/-- Settles O44: one rule over the effects for each clause. -/
theorem eventCombinations : Obligations.EventCombinations := by
  intro i s hw
  obtain ⟨t, r, ht, e⟩ := exec_effect i s
  refine ⟨t, r, ht, e.results, e.result_of_control, fun hf => ?_, e.noOverrun_of_malformed hw, fun hts => ?_,
    e.frameDiscarded_iff, fun _ => e.marked_of_frame⟩
  · exact e.noOffsetMismatch_noOverrun_of_notPacket (packetOf_of_truncated hf)
  · have hno := fun ev => e.has_of_tsNonincreasing (ev := ev) hts
    exact ⟨hno _ (by decide), hno _ (by decide), hno _ (by decide), hno _ (by decide)⟩

/-! ### Recovery -/

/-- A boundary and ABORT leave the block clean (R114, R126, R145). -/
theorem Effect.clean {s t : State} {i : Instr} {r : Result} (e : Effect s i t r)
    (hi : isMarkerPacket i = true ∨ i = .abort) : Clean t := by
  rcases hi with hm | rfl
  · obtain ⟨hefo, hcor, -⟩ := e.boundary hm
    exact ⟨hefo, hcor⟩
  · cases e with
    | packet hp => cases hp
    | abort => exact ⟨rfl, rfl⟩

/-- Settles O54: on the clean block the next packet has none of the causes of corruption. -/
theorem recoveryAfterTheBoundary : Obligations.RecoveryAfterTheBoundary := by
  intro i j p s hi hp hm hoff htab hfits
  obtain ⟨t, r, ht, e⟩ := exec_effect i s
  obtain ⟨hefo, hcor⟩ := e.clean hi
  have hc : corruptedAfter t p = false := (corruptedAfter_eq_false_iff t p).2
    ⟨hcor, by rw [hoff, hefo]; rfl, (badTableLength_eq_false_iff _).2 htab, by omega⟩
  refine ⟨t, _, ht, exec_of_unmarked hp hm t, hc, ?_⟩
  rw [packetEvents_of_clean hc]

end Sys2Proof.Machine

/-! ## Family 70, reset and hazards: refusing an untrue length, and reuse between frames -/

namespace Sys2Proof.Machine

/-! ### An untrue length -/

/-- The decoder knows no instruction for a PKT command whose `L` is not the length of its payload (R165). -/
theorem decode_of_untrueLength {c : Command} (hop : c.operation = .pkt) (hlen : c.pay.length ≠ c.len.toNat) :
    decode c = .error .untruePayloadLength := by
  simp only [decode, hop, if_neg hlen]

/-- Settles O14: the step hands the decoder's error on as the refusal of that name. -/
theorem stepRefusesAnUntrueLength : Obligations.StepRefusesAnUntrueLength := by
  intro s c rest hport hop hlen
  simp only [step, hport, decode_of_untrueLength hop hlen]

/-! ### The header region after a packet with tables -/

/-- A packet with tables writes every patchable address, and the others hold the template: header regions in order read alike
after it (R25, R32, R94, R95). -/
theorem byteAt_patchedBuffer_eq_of_headerRegionOk {h : Hdr} (hq : h.qt = true) (h1 : h.tab1.length = 64)
    (h2 : h.tab2.length = 64) {s s' : State} (hs : HeaderRegionOk s) (hs' : HeaderRegionOk s') {a : Nat} (ha : a < 623) :
    Memory.byteAt (patchedBuffer h s.buf) a = Memory.byteAt (patchedBuffer h s'.buf) a := by
  have hunpatched : patchable a = false → Memory.byteAt s.buf a = Memory.byteAt s'.buf a := fun hpatch => by
    rw [(headerRegionOk_iff s).1 hs a ha hpatch, (headerRegionOk_iff s').1 hs' a ha hpatch]
  rw [byteAt_patchedBuffer h _ a hq h1 h2, byteAt_patchedBuffer h _ a hq h1 h2]
  split_ifs
  case neg => exact hunpatched (by simp [patchable]; omega)
  all_goals rfl

/-! ### A first packet with tables on two clean instances -/

/-- One operation makes two instances hand over the same frame, if any, and leaves them in agreement. -/
def AgreeAfter (i : Instr) (s s' : State) : Prop :=
  ∃ t t' r r', exec i s = .next t ∧ exec i s' = .next t' ∧ t.results = s.results ++ [r] ∧
    t'.results = s'.results ++ [r'] ∧ r.frame = r'.frame ∧ SameForFrames t t'

section Reuse

variable {i : Instr} {p : Packet} {s s' t t' : State} {r r' : Result}

/-- On a clean instance a packet with tables begins a frame: its offset is 0, and no payload overruns the buffer there. -/
theorem continues_of_tables (hs : Clean s) (hw : i.wellFormed = true) (hp : packetOf i = some p)
    (hq : p.hdr.qt = true) : Continues ⟨[], false⟩ i p s := by
  obtain ⟨-, -, hqh, -, hzero⟩ := packetOf_wellFormed i p hw hp
  have hlen := data_length_le hw hp
  have hcap := bufCap_ge
  have ⟨_, hcor⟩ := hs
  exact ⟨hw, hp, hcor, scanTracked_of_clean hs, hzero (hqh hq), by simp [badTableLength, hq],
    by simp only [List.length_nil]; omega⟩

/-- After a first packet with tables, instances that were clean read alike up to the end of its scan data: below 623 by
the patch, and from there on both hold the data. -/
theorem byte_eq_of_tables (c : Continues ⟨[], false⟩ i p s) (c' : Continues ⟨[], false⟩ i p s')
    (hs : HeaderRegionOk s) (hs' : HeaderRegionOk s') (hq : p.hdr.qt = true) (e : PacketEffect p s t r)
    (e' : PacketEffect p s' t' r') {a : Nat} (ha : a < 623 + p.data.length) : t.byte a = t'.byte a := by
  by_cases hlow : a < 623
  · obtain ⟨-, -, -, htab, -⟩ := packetOf_wellFormed i p c.wellFormed c.packet
    obtain ⟨h1, h2⟩ := htab hq
    apply State.byte_congr
    rw [e.header hlow, e'.header hlow, byteAt_patchedBuffer_eq_of_headerRegionOk hq h1 h2 hs hs' hlow]
  · obtain ⟨k, rfl⟩ := Nat.exists_eq_add_of_le (Nat.le_of_not_lt hlow)
    obtain ⟨-, -, hdata⟩ := e.scan c.wellFormed c.packet c.corruptedAfter_eq c.tracked
    obtain ⟨-, -, hdata'⟩ := e'.scan c'.wellFormed c'.packet c'.corruptedAfter_eq c'.tracked
    have hk : k < ([] ++ p.data).length := Nat.lt_of_add_lt_add_left ha
    exact (hdata k hk).trans (hdata' k hk).symm

/-- A first packet with tables brings clean instances into agreement (R94, R95, R169). -/
theorem agreeAfter_of_tables (hs : Clean s) (hs' : Clean s') (hhead : HeaderRegionOk s) (hhead' : HeaderRegionOk s')
    (hw : i.wellFormed = true) (hp : packetOf i = some p) (hq : p.hdr.qt = true) : AgreeAfter i s s' := by
  obtain ⟨t, r, ht, e⟩ := exec_packetEffect hp s
  obtain ⟨t', r', ht', e'⟩ := exec_packetEffect hp s'
  have c := continues_of_tables hs hw hp hq
  have c' := continues_of_tables hs' hw hp hq
  have hoff : p.hdr.off.toNat = 0 := c.off
  have hbyte : ∀ a, a < 623 + p.data.length → t.byte a = t'.byte a := fun _ =>
    byte_eq_of_tables c c' hhead hhead' hq e e'
  have hwc := e.wc_toNat (data_length_le hw hp)
  have hfits : 623 + 0 + p.data.length ≤ Config.bufCap := c.fits
  have hefo : t.efo.toNat ≤ p.data.length := by
    rw [e.efo, hoff, Nat.zero_add]
    split
    · exact Nat.zero_le _
    · exact Nat.mod_le _ _
  refine ⟨t, t', r, r', ht, ht', e.results, e'.results, ?_, e.efo.trans e'.efo.symm, ?_, fun a ha => hbyte a (by omega),
    fun _ a _ ha => hbyte a (by omega)⟩
  · rw [e.frame, e'.frame, c.corruptedAfter_eq, c'.corruptedAfter_eq,
      emission_congr (e.wc.trans e'.wc.symm) (by omega) fun a ha => hbyte a (by omega)]
  · rw [e.cor, e'.cor, c.corruptedAfter_eq, c'.corruptedAfter_eq]

/-- Once an operation has brought two instances into agreement, any sequence after it makes them hand over the same
frames: by induction, since every operation keeps the agreement (O58). -/
theorem AgreeAfter.runInstrs_frames (h : AgreeAfter i s s') (is : List Instr) : ∃ t t' rs rs',
    runInstrs (i :: is) s = .next t ∧ runInstrs (i :: is) s' = .next t' ∧ t.results = s.results ++ rs ∧
      t'.results = s'.results ++ rs' ∧ rs.map Result.frame = rs'.map Result.frame := by
  induction is generalizing i s s' with
  | nil =>
    obtain ⟨t, t', r, r', ht, ht', hres, hres', hframe, -⟩ := h
    exact ⟨t, t', [r], [r'], runInstrs_cons_of_exec [] ht, runInstrs_cons_of_exec [] ht', hres, hres',
      congrArg ([·]) hframe⟩
  | cons j js ih =>
    obtain ⟨u, u', r, r', hu, hu', hres, hres', hframe, hagree⟩ := h
    obtain ⟨t, t', rs, rs', ht, ht', htail, htail', hframes⟩ := ih (agreementIsKeptAndGivesEqualFrames j u u' hagree)
    refine ⟨t, t', r :: rs, r' :: rs', (runInstrs_cons_of_exec _ hu).trans ht, (runInstrs_cons_of_exec _ hu').trans ht',
      ?_, ?_, ?_⟩
    · rw [htail, hres, List.append_assoc, List.singleton_append]
    · rw [htail', hres', List.append_assoc, List.singleton_append]
    · rw [List.map_cons, List.map_cons, hframe, hframes]

end Reuse

/-- Settles O59: the reset state is clean with its header region in order, so the first packet brings the used instance
into agreement with it. -/
theorem reuseIsLikeAFreshInstance : Obligations.ReuseIsLikeAFreshInstance := by
  intro i is p s hs hhead hw hp hq
  have hreset : HeaderRegionOk State.reset := fun a h _ => byte_reset_header h
  obtain ⟨t, u, rs, rs', ht, hu, hres, hres', hframes⟩ :=
    (agreeAfter_of_tables hs ⟨rfl, rfl⟩ hhead hreset hw hp hq).runInstrs_frames is
  refine ⟨t, u, ht, hu, ?_⟩
  rw [resultsFrom, hres, hres', List.drop_left, hframes]
  rfl

end Sys2Proof.Machine
